-- ==== Sys2Proof/Word.lean ====
section
/-! DEFINITION. The plain words of the part: bytes, and the numbers of its tables. -/

namespace Sys2Proof

/-- One byte of a frame, a token, a serial or a generation. -/
abbrev Byte := BitVec 8

/-- A channel number, 0 to 11; link n serves channel n (R126). -/
abbrev ChanId := Fin 12

/-- A directory entry number (R1). -/
abbrev EntryNo := Fin 1024

/-- A watch record index (R47). -/
abbrev WatchNo := Fin 256

/-- A plan slot number (R91). -/
abbrev SlotNo := Fin 16

end Sys2Proof
end

