-- ==== Sys2Proof/Config.lean ====
section
/-! DEFINITION. What the manual leaves free, and the fixed capacities it states. -/

namespace Sys2Proof

/-- FREE VALUE (log 3): the order in which timers that run out in the same millisecond are taken. The manual gives the
outcome of each order (R25, R54, R88, R105, R149) and no order; nothing in Lean can evaluate this. -/
opaque Config.freeOrder : Nat → Nat

/-- The send queue holds at most 176 frames (R137). -/
def Config.sendQueueMax : Nat := 176

/-- A run of INSTALL frames pauses when the send queue holds 160 frames (R139). -/
def Config.runMax : Nat := 160

/-- The in-flight list holds at most 8 frames (R141). -/
def Config.inflightMax : Nat := 8

/-- A fence queue holds at most 32 entries (R107). -/
def Config.fenceQueueMax : Nat := 32

/-- A channel holds at most 32 row exclusions (R32). -/
def Config.exclusionMax : Nat := 32

/-- The greatest score (R47). -/
def Config.scoreMax : Nat := 1023

end Sys2Proof
end

