-- ==== Sys2Proof/Syntax.lean ====
section
/-! DEFINITION. The 54 commands of spec/opcode_table.json. The table gives their rows no operand bits; the operands are those
the rules give. A request's own operands stand in the frame that the port's request slot holds (R152, R159), and a client
message's fields in the frame that the link's receive slot holds (R133), so these commands name only the port or the link. -/

namespace Sys2Proof

/-- The two management ports (R150). -/
inductive PortId | a | b
  deriving DecidableEq, Repr

/-- The four strap pins as levels: `a` holds ADDRA1 ADDRA0 and `b` holds ADDRB1 ADDRB0 (R150). -/
structure Straps where
  a : BitVec 2
  b : BitVec 2
  deriving DecidableEq, Repr

/-- A command: one row of the table. -/
inductive Instr
  /-- RSTn goes low (R192). -/
  | powerOnReset
  /-- RSTn goes high; the strap pins are sampled (R192). -/
  | resetRelease (straps : Straps)
  /-- REFCLK is lost (R193). -/
  | refclkStop
  /-- REFCLK returns (R193). -/
  | refclkResume
  /-- A START, the address phase of a write, and the data bytes sent so far (R154). -/
  | requestWriteStart (p : PortId) (addr : BitVec 7) (data : List Byte)
  /-- The further data bytes of the write, and its end (R155). -/
  | requestWriteEnd (p : PortId) (data : List Byte)
  /-- `start`: the address phase of a new read, or none when the read under way goes on. `n` bytes are taken by the master.
  `ends`: the transaction ends after them (R156). -/
  | i2cRead (p : PortId) (start : Option (BitVec 7)) (n : Nat) (ends : Bool)
  | replyHoldExpiry (p : PortId)
  | unparsedRequest (p : PortId)
  | getStatus (p : PortId)
  | getChannel (p : PortId)
  | getLink (p : PortId)
  | getInventory (p : PortId)
  | readEntry (p : PortId)
  | find (p : PortId)
  | nextEntry (p : PortId)
  | readWatch (p : PortId)
  | findWatch (p : PortId)
  | readCause (p : PortId)
  | readPlan (p : PortId)
  | readConfig (p : PortId)
  | seed (p : PortId)
  | addRepair (p : PortId)
  | retire (p : PortId)
  | refilled (p : PortId)
  | startTest (p : PortId)
  | stopTest (p : PortId)
  | release (p : PortId)
  | writePlan (p : PortId)
  | setConfig (p : PortId)
  | clearAttention (p : PortId)
  | setAttention (p : PortId)
  | grant (p : PortId)
  | controlReset (p : PortId)
  | trainingTimerExpiry (l : ChanId)
  | lossOfSignal (l : ChanId)
  /-- The frame of the in-flight list that carries this sequence number has run out of time (R143). -/
  | ackTimerExpiry (l : ChanId) (seq : BitVec 4)
  | frameSent (l : ChanId)
  | frameArrival (l : ChanId) (bytes : List Byte)
  | malformedFrame (l : ChanId)
  | hello (l : ChanId)
  | geometry (l : ChanId)
  | stepDone (l : ChanId)
  | fail (l : ChanId)
  | ack (l : ChanId)
  | drained (l : ChanId)
  | report (l : ChanId)
  | query (l : ChanId)
  | linkWaitExpiry (c : ChanId)
  | geometryWaitExpiry (c : ChanId)
  | stepTimerExpiry (c : ChanId)
  | fenceTimerExpiry (c : ChanId)
  | decay
  | budgetExpiry (c : ChanId)
  deriving DecidableEq, Repr

end Sys2Proof
end

