-- ==== Sys2Proof/WellFormed.lean ====
section
/-! DEFINITION. Which commands can stand for something that happens at the part. -/

namespace Sys2Proof

/-- A byte string that can be one link frame: type, sequence and length bytes, the payload that the length byte names, and
two CRC bytes (R187). A length above 28 ends nowhere (R132), so any three bytes or more will do then. -/
def wholeFrame (bytes : List Byte) : Bool :=
  match bytes with
  | _ :: _ :: len :: rest => if len.toNat ≤ 28 then rest.length = len.toNat + 2 else true
  | _ => false

/-- Well-formed commands: a frame that arrives is a whole frame; a read takes at least one byte; fences exist only for the
BUFFER clients 0 to 7 (R107). -/
def Instr.wellFormed : Instr → Bool
  | .frameArrival _ bytes => wholeFrame bytes
  | .i2cRead _ _ n _ => 1 ≤ n
  | .fenceTimerExpiry c => c.val < 8
  | .powerOnReset | .resetRelease _ | .refclkStop | .refclkResume | .requestWriteStart _ _ _ | .requestWriteEnd _ _
  | .replyHoldExpiry _ | .unparsedRequest _ | .getStatus _ | .getChannel _ | .getLink _ | .getInventory _
  | .readEntry _ | .find _ | .nextEntry _ | .readWatch _ | .findWatch _ | .readCause _ | .readPlan _
  | .readConfig _ | .seed _ | .addRepair _ | .retire _ | .refilled _ | .startTest _ | .stopTest _ | .release _
  | .writePlan _ | .setConfig _ | .clearAttention _ | .setAttention _ | .grant _ | .controlReset _ | .trainingTimerExpiry _
  | .lossOfSignal _ | .ackTimerExpiry _ _ | .frameSent _ | .malformedFrame _ | .hello _ | .geometry _
  | .stepDone _ | .fail _ | .ack _ | .drained _ | .report _ | .query _ | .linkWaitExpiry _ | .geometryWaitExpiry _
  | .stepTimerExpiry _ | .decay | .budgetExpiry _ => true

end Sys2Proof
end

