-- ==== Sys2Proof/Machine/State.lean ====
section
/-! DEFINITION. The state of the Cenhal 4160 as plain data, block by block, and its value after reset. -/

namespace Sys2Proof.Machine

/-- The part has no fault that stops it: no rule names one, so this type is empty. -/
inductive Fault
  deriving DecidableEq, Repr

/-- Why a command has no meaning. -/
inductive Refusal
  /-- Raised only by an arm of exec whose command has no meaning yet; safe (nothing is claimed of it). -/
  | notModelled (mnemonic : String)
  deriving DecidableEq, Repr

/-- A timer: stopped, or running with so many milliseconds of the Time Base left (R193). -/
abbrev Timer := Option Nat

/-! ### Repair Directory -/

/-- What an entry maps its key to, but for an exclusion (R1). -/
inductive Target
  | device (group index : Nat)
  | pool (slot : Nat)
  deriving DecidableEq, Repr

/-- An entry's kind with its target (R1): DEVICE, POOL, or EXCLUDE, which has none. -/
inductive Replacement
  | target (t : Target)
  | exclude
  deriving DecidableEq, Repr

/-- The states of an entry that is not FREE, in the order of R1. -/
inductive EntryState
  | unresolved | pending | fencing | installing | refill | active | retireWait | retireFencing | removing
  deriving DecidableEq, Repr

/-- Which path created an entry (R1). -/
inductive Origin | seed | test | score | manual
  deriving DecidableEq, Repr

/-- A directory key: channel, bank, and row or whole bank (no row). -/
structure Key where
  chan : ChanId
  bank : Nat
  row : Option Nat
  deriving DecidableEq, Repr

/-- The fields of an entry that is not FREE (R1). -/
structure Live where
  st : EntryState
  key : Key
  repl : Option Replacement
  requested : Option Target
  origin : Origin
  tag : BitVec 16
  round : Nat
  deriving DecidableEq, Repr

/-- A directory entry; `live` is absent in FREE (R1). -/
structure Entry where
  gen : Byte
  live : Option Live
  deriving DecidableEq, Repr

/-! ### Spare Inventory -/

/-- The geometry fields of R27. -/
structure Geometry where
  banks : Nat
  rowsPerBank : Nat
  banksPerGroup : Nat
  sparesPerGroup : Nat
  poolBank : Nat
  poolRows : Nat
  serial : List Byte
  deriving DecidableEq, Repr

/-- States of a device spare (R31). -/
inductive SpareState | free | used | spent
  deriving DecidableEq, Repr

/-- States of a pool slot (R30). -/
inductive SlotState | free | used | bad
  deriving DecidableEq, Repr

/-- A channel's inventory (R26). -/
structure Inventory where
  geo : Geometry
  tag : BitVec 16
  spares : List (List SpareState)
  slots : List SlotState
  exclusions : Nat
  tallies : List Nat
  deriving DecidableEq, Repr

/-! ### Watch table -/

/-- A watch record in use (R47). -/
structure Watch where
  chan : ChanId
  bank : Nat
  row : Nat
  score : Nat
  correctable : Nat
  ueSeen : Bool
  deriving DecidableEq, Repr

/-! ### Test plan -/

/-- Step direction (R91). -/
inductive Direction | up | down
  deriving DecidableEq, Repr

/-- Step background (R91). -/
inductive Background | solid | checker | rowstripe | colstripe
  deriving DecidableEq, Repr

/-- One march operation (R91). -/
inductive MarchOp | w0 | w1 | r0 | r1
  deriving DecidableEq, Repr

/-- Step spread (R91). -/
inductive Spread | parallel | serial
  deriving DecidableEq, Repr

/-- A step held in a plan slot (R91); bit n of the mask names channel n. -/
structure PlanStep where
  direction : Direction
  background : Background
  ops : List MarchOp
  pause : Nat
  mandatory : Bool
  spread : Spread
  mask : BitVec 12
  deriving DecidableEq, Repr

/-! ### Channel records -/

/-- Channel states, in the order of R63. -/
inductive ChanState | down | idle | test | ready | service | resync | lost | failed
  deriving DecidableEq, Repr

/-- Test phases (R63). -/
inductive Phase | discover | poolcheck | seedinstall | main | repairinstall | verify | releasing
  deriving DecidableEq, Repr

/-- Fail causes, in the order of R63. -/
inductive Cause
  | absent | geometry | linkLost | linkError | stepTimeout | agent | bankLimit | unrepairable | dirFull | protocol
  deriving DecidableEq, Repr

/-- The kind of a step (R63). -/
inductive StepKind
  | poolcheck
  | plan (slot : SlotNo)
  | verify (round : Nat)
  deriving DecidableEq, Repr

/-- What a WAITING or HELD channel has with it; its weight is its class's (R101). -/
structure Ask where
  kind : StepKind
  spread : Spread
  deriving DecidableEq, Repr

/-- A channel's admission (R101). -/
inductive Admission
  | none
  | waiting (a : Ask)
  | held (a : Ask)
  deriving DecidableEq, Repr

/-- A row of a channel. -/
structure RowKey where
  bank : Nat
  row : Nat
  deriving DecidableEq, Repr

/-- The outstanding step (R63), with the region of a VERIFY round (R73). -/
structure Running where
  kind : StepKind
  token : Byte
  region : List RowKey
  deriving DecidableEq, Repr

/-- A channel record (R63, R121, R139). The class is fixed by the channel's number. -/
structure Channel where
  state : ChanState
  phase : Option Phase
  cause : Option Cause
  runStart : Option (BitVec 32)
  planPos : Option SlotNo
  step : Option Running
  admission : Admission
  verifyRound : Nat
  roundFailed : Bool
  repaired : List RowKey
  skipped : Nat
  repairs : Nat
  releaseOut : Bool
  nextToken : Byte
  installPos : Option Nat
  walkPos : Option Nat
  awaited : Option Nat
  linkWait : Timer
  geomWait : Timer
  stepTimer : Timer
  deriving DecidableEq, Repr

/-! ### Repair links -/

/-- Link states (R126). -/
inductive LinkState | down | training | up
  deriving DecidableEq, Repr

/-- The region a RUN_STEP names (R98). -/
inductive Region | pool | main | repaired
  deriving DecidableEq, Repr

/-- The answer of a ROW_STATUS (R146). -/
inductive RowStatus
  | normal
  | watched (score : Nat)
  | repairedDevice (group index : Nat)
  | repairedPool (bank row : Nat)
  | fenced
  | excluded
  deriving DecidableEq, Repr

/-- The eleven messages the part sends (R144). A key is a bank with a row, or the whole bank. -/
inductive Msg
  | init (link : ChanId)
  | discover
  | runStep (token : Byte) (direction : Direction) (background : Background) (ops : List MarchOp) (pause : Nat)
      (region : Region)
  | halt
  | install (bank : Nat) (row : Option Nat) (repl : Replacement)
  | remove (bank : Nat) (row : Option Nat)
  | clearSet
  | fence (serial : Byte) (bank : Nat) (row : Option Nat)
  | lift (serial : Byte)
  | release
  | rowStatus (bank row : Nat) (status : RowStatus)
  deriving DecidableEq, Repr

/-- What a RELEASE closes (R137). -/
inductive ReleaseOf | run | ready | resync
  deriving DecidableEq, Repr

/-- The note kept with a frame for its ACK (R137). `abandoned`: a START_TEST, a STOP_TEST or a control reset has stopped the
channel since this RELEASE was sent (R80). -/
inductive Note
  | none
  | directory (entry : EntryNo) (gen : Byte) (resync : Bool)
  | clearSet
  | release (closes : ReleaseOf) (abandoned : Bool)
  | lift (serial : Byte)
  deriving DecidableEq, Repr

/-- A frame of the send queue (R137). -/
structure QFrame where
  msg : Msg
  note : Note
  deriving DecidableEq, Repr

/-- A frame on the transmit lane, with the sequence number it took (R136). -/
structure TxFrame where
  seq : BitVec 4
  msg : Msg
  deriving DecidableEq, Repr

/-- A frame of the in-flight list (R141). -/
structure Inflight where
  seq : BitVec 4
  msg : Msg
  note : Note
  timer : Nat
  deriving DecidableEq, Repr

/-- A frame that the link has accepted (R133): type byte, the low four bits of the sequence byte, and the payload. -/
structure RxFrame where
  type : Byte
  seq : BitVec 4
  payload : List Byte
  deriving DecidableEq, Repr

/-- The counters of a link (R126). -/
structure Counters where
  crcDiscards : Nat
  overruns : Nat
  gaps : Nat
  malformed : Nat
  ackTimeouts : Nat
  sendOverflows : Nat
  lossesOfSignal : Nat
  timesUp : Nat
  deriving DecidableEq, Repr

/-- A link record (R126). `rx` lists the frames that the two receive slots hold, oldest first; a frame's slot is the parity
of its sequence number (R133). -/
structure Link where
  state : LinkState
  nextTx : BitVec 4
  expected : BitVec 4
  rx : List RxFrame
  sendq : List QFrame
  inflight : List Inflight
  fenceSerial : Byte
  gap : Bool
  lastHello : Option Byte
  counters : Counters
  training : Timer
  lane : Option TxFrame
  overflow : Bool
  deriving DecidableEq, Repr

/-! ### In-Service Repair Unit -/

/-- What a fence is for (R108). -/
inductive Purpose | install | remove
  deriving DecidableEq, Repr

/-- An outstanding fence (R108). -/
structure Fence where
  serial : Byte
  entry : EntryNo
  bank : Nat
  row : Option Nat
  purpose : Purpose
  timer : Nat
  deriving DecidableEq, Repr

/-- A BUFFER client's fence queue and outstanding fence (R107, R108). -/
structure FenceUnit where
  queue : List EntryNo
  out : Option Fence
  deriving DecidableEq, Repr

/-! ### Attention Unit -/

/-- The ten conditions in the order of R174. -/
inductive Condition
  | channelFailed | unrepairable | fenceTimeout | linkLost | refillNeeded | budgetExpired | poolLow | watchFull | testDone
  | repairDone
  deriving DecidableEq, Repr

/-- The number of a condition (R174). -/
def Condition.num : Condition → Fin 10
  | .channelFailed => 0
  | .unrepairable => 1
  | .fenceTimeout => 2
  | .linkLost => 3
  | .refillNeeded => 4
  | .budgetExpired => 5
  | .poolLow => 6
  | .watchFull => 7
  | .testDone => 8
  | .repairDone => 9

/-- An attention line (R175). -/
inductive Line | hi | lo
  deriving DecidableEq, Repr

/-- The value of a condition (R174); the last two belong to the level conditions. -/
inductive CondValue
  | failed (c : ChanId) (cause : Cause)
  | key (k : Key)
  | channel (c : ChanId)
  | testDone (c : ChanId) (skipped repairs : Nat)
  | budget (c : ChanId) (elapsed : Nat)
  | poolLow (c : ChanId) (free : Nat)
  deriving DecidableEq, Repr

/-- A condition record (R175). -/
structure CondRec where
  pending : Bool
  enable : Bool
  line : Line
  value : Option CondValue
  more : Bool
  deriving DecidableEq, Repr

/-! ### Management ports and configuration -/

/-- Why a port last lost a reply or a request (R151). -/
inductive LastLoss | none | lapsed | reset
  deriving DecidableEq, Repr

/-- What a read under way sends (R156, R157, R172). -/
inductive Reading
  | reply
  | notReady (frame : List Byte) (pos : Nat)
  | ones
  deriving DecidableEq, Repr

/-- What the part answered in the last bus transaction command: the address acknowledge (none: no address phase), an
acknowledge for each data byte written, and the bytes sent. -/
structure BusOut where
  addressAck : Option Bool
  dataAcks : List Bool
  sent : List Byte
  deriving DecidableEq, Repr

/-- A management port (R150, R151). -/
structure Port where
  addr : BitVec 7
  req : Option (List Byte)
  reply : Option (List Byte)
  readPos : Nat
  hold : Timer
  lastLoss : LastLoss
  writing : Option (List Byte)
  reading : Option Reading
  bus : BusOut
  deriving DecidableEq, Repr

/-- The two settable classes of the grant mask; INSPECT is always in it and OWNER never (R164). -/
structure Grant where
  edit : Bool
  control : Bool
  deriving DecidableEq, Repr

/-- The fourteen configuration items in item-number order (R166). -/
structure Items where
  bootBudget : Nat
  powerCeiling : Nat
  repairThreshold : Nat
  decayPeriod : Nat
  bankFailLimit : Nat
  verifyRounds : Nat
  ackTimeout : Nat
  stepTimeout : Nat
  fenceTimeout : Nat
  discoverWait : Nat
  replyHold : Nat
  poolLowMark : Nat
  autoRelease : Nat
  deviceSparesUse : Nat
  deriving DecidableEq, Repr

/-! ### The whole -/

/-- The blocks that link traffic and repairs change: directory, inventories, watch table, channel records, links, fence units
and attention records. -/
structure Body where
  dir : Vector Entry 1024
  inv : Vector (Option Inventory) 12
  watch : Vector (Option Watch) 256
  chan : Vector Channel 12
  link : Vector Link 12
  fence : Vector FenceUnit 8
  att : Vector CondRec 10
  deriving DecidableEq, Repr

/-- The state of the part. -/
structure State where
  inReset : Bool
  refclk : Bool
  now : BitVec 32
  items : Items
  plan : Vector (Option PlanStep) 16
  grant : Grant
  executor : Option PortId
  portA : Port
  portB : Port
  decayTimer : Nat
  body : Body
  pending : List Instr
  picks : Nat
  deriving DecidableEq, Repr

/-! ### Reset values -/

/-- The defaults of R166. -/
def Items.default : Items where
  bootBudget := 30000
  powerCeiling := 12
  repairThreshold := 256
  decayPeriod := 60
  bankFailLimit := 16
  verifyRounds := 3
  ackTimeout := 50
  stepTimeout := 60
  fenceTimeout := 2000
  discoverWait := 500
  replyHold := 100
  poolLowMark := 8
  autoRelease := 1
  deviceSparesUse := 1

/-- A step of the default plan: every channel, as R97 gives. -/
def PlanStep.default (d : Direction) (b : Background) (ops : List MarchOp) (pause : Nat) (m : Bool) (sp : Spread) :
    Option PlanStep :=
  some ⟨d, b, ops, pause, m, sp, 0xFFF#12⟩

/-- The default plan (R97). -/
def Plan.default : Vector (Option PlanStep) 16 :=
  #v[PlanStep.default .up .solid [.w0] 0 true .parallel,
     PlanStep.default .up .solid [.r0, .w1] 0 true .parallel,
     PlanStep.default .down .solid [.r1, .w0] 0 true .parallel,
     PlanStep.default .up .checker [.w0] 0 false .parallel,
     PlanStep.default .up .checker [.r0] 14 false .serial,
     PlanStep.default .down .rowstripe [.w1, .r1, .w0, .r0] 0 false .parallel,
     none, none, none, none, none, none, none, none, none, none]

/-- INSPECT alone (R164). -/
def Grant.default : Grant := ⟨false, false⟩

/-- A FREE entry at power-on (R6). -/
def Entry.initial : Entry := ⟨0#8, none⟩

/-- A channel record at power-on (R90, R99). -/
def Channel.initial : Channel where
  state := .down
  phase := none
  cause := none
  runStart := none
  planPos := none
  step := none
  admission := .none
  verifyRound := 0
  roundFailed := false
  repaired := []
  skipped := 0
  repairs := 0
  releaseOut := false
  nextToken := 0#8
  installPos := none
  walkPos := none
  awaited := none
  linkWait := none
  geomWait := none
  stepTimer := none

/-- All counters zero (R148). -/
def Counters.zero : Counters := ⟨0, 0, 0, 0, 0, 0, 0, 0⟩

/-- A link while RSTn is low: every value of R148, its lane idle and its training timer stopped (R192; log 5). -/
def Link.initial : Link where
  state := .training
  nextTx := 0#4
  expected := 0#4
  rx := []
  sendq := []
  inflight := []
  fenceSerial := 0#8
  gap := false
  lastHello := none
  counters := Counters.zero
  training := none
  lane := none
  overflow := false

/-- No queue, no fence (R107, R108). -/
def FenceUnit.initial : FenceUnit := ⟨[], none⟩

/-- A condition record at power-on, with its line select (R184). -/
def CondRec.initial (l : Line) : CondRec := ⟨false, false, l, none, false⟩

/-- The attention records at power-on (R184). -/
def Attention.initial : Vector CondRec 10 :=
  #v[.initial .hi, .initial .hi, .initial .hi, .initial .hi, .initial .lo, .initial .lo, .initial .lo, .initial .lo,
     .initial .lo, .initial .lo]

/-- Nothing answered. -/
def BusOut.silent : BusOut := ⟨none, [], []⟩

/-- A port at power-on with the address its straps give (R150, R151). -/
def Port.initial (addr : BitVec 7) : Port where
  addr := addr
  req := none
  reply := none
  readPos := 0
  hold := none
  lastLoss := .none
  writing := none
  reading := none
  bus := BusOut.silent

/-- Every block at its power-on value (R6, R35, R62, R90, R107, R108, R148, R184). -/
def Body.initial : Body where
  dir := Vector.replicate 1024 Entry.initial
  inv := Vector.replicate 12 none
  watch := Vector.replicate 256 none
  chan := Vector.replicate 12 Channel.initial
  link := Vector.replicate 12 Link.initial
  fence := Vector.replicate 8 FenceUnit.initial
  att := Attention.initial

/-- The part while RSTn is low (R192); the port addresses stand for straps not yet sampled (log 5). -/
def State.held : State where
  inReset := true
  refclk := true
  now := 0#32
  items := Items.default
  plan := Plan.default
  grant := Grant.default
  executor := none
  portA := Port.initial 0x48#7
  portB := Port.initial 0x4C#7
  decayTimer := 60000
  body := Body.initial
  pending := []
  picks := 0

/-- A link right after RSTn has gone high: TRAINING, the first INIT on its lane, the training timer running (R127, R192). -/
def Link.released (l : ChanId) : Link :=
  { Link.initial with lane := some ⟨0#4, .init l⟩, training := some 1 }

/-- The address that port A's straps select (R150). -/
def addrA (st : BitVec 2) : BitVec 7 := 0x48#7 + st.zeroExtend 7

/-- The address that port B's straps select (R150). -/
def addrB (st : BitVec 2) : BitVec 7 := 0x4C#7 + st.zeroExtend 7

/-- The links right after RSTn has gone high. -/
def Body.released : Body :=
  { Body.initial with
    link := #v[.released 0, .released 1, .released 2, .released 3, .released 4, .released 5, .released 6, .released 7,
               .released 8, .released 9, .released 10, .released 11] }

/-- The machine right after power-on reset: RSTn has gone high with straps 00 (R192; log 4). -/
def State.reset : State :=
  { State.held with
    inReset := false
    portA := Port.initial (addrA 0#2)
    portB := Port.initial (addrB 0#2)
    body := Body.released }

end Sys2Proof.Machine
end

