-- ==== Sys2Proof/Machine/Bytes.lean ====
section
/-! DEFINITION. Byte order (R186), the CRC (R131), and the codes of named values (R190). -/

namespace Sys2Proof.Machine

/-- A number in one byte. -/
def be1 (n : Nat) : List Byte := [BitVec.ofNat 8 n]

/-- A number in two bytes, most significant first (R186). -/
def be2 (n : Nat) : List Byte := [BitVec.ofNat 8 (n / 256), BitVec.ofNat 8 n]

/-- A number in three bytes, most significant first (R186). -/
def be3 (n : Nat) : List Byte := [BitVec.ofNat 8 (n / 65536), BitVec.ofNat 8 (n / 256), BitVec.ofNat 8 n]

/-- A number in four bytes, most significant first (R186). -/
def be4 (n : Nat) : List Byte :=
  [BitVec.ofNat 8 (n / 16777216), BitVec.ofNat 8 (n / 65536), BitVec.ofNat 8 (n / 256), BitVec.ofNat 8 n]

/-- The number that bytes spell, most significant first (R186). -/
def ofBytes (bs : List Byte) : Nat := bs.foldl (fun n b => n * 256 + b.toNat) 0

/-- One byte of zeros for each place of an absent field (R190). -/
def zeros (n : Nat) : List Byte := List.replicate n 0#8

/-- One bit of the CRC register: x^16 + x^12 + x^5 + 1, most significant bit first (R131). -/
def crcBit (r : BitVec 16) : BitVec 16 := if r.msb then (r <<< 1) ^^^ 0x1021#16 else r <<< 1

/-- One byte into the CRC register (R131). -/
def crcByte (r : BitVec 16) (b : Byte) : BitVec 16 :=
  crcBit (crcBit (crcBit (crcBit (crcBit (crcBit (crcBit (crcBit (r ^^^ (b.zeroExtend 16 <<< 8)))))))))

/-- The CRC of the link frames, of the management frames and of the device tag (R131, R29). -/
def crc16 (bs : List Byte) : BitVec 16 := bs.foldl crcByte 0xFFFF#16

/-- The CRC's two bytes, high byte first (R130, R152). -/
def crcBytes (bs : List Byte) : List Byte := be2 (crc16 bs).toNat

/-- A frame's bytes with its CRC after them. -/
def sealed (bs : List Byte) : List Byte := bs ++ crcBytes bs

/-- Yes or no in one byte (R190). -/
def yesNo (b : Bool) : List Byte := be1 (if b then 1 else 0)

/-- An optional field: a mark byte, then the field, zero-filled when absent (R190). -/
def optField {α : Type} (width : Nat) (enc : α → List Byte) : Option α → List Byte
  | none => 0#8 :: zeros width
  | some x => 1#8 :: enc x

/-- Place of a direction in R91's list. -/
def Direction.code : Direction → Nat | .up => 0 | .down => 1

/-- Place of a background in R91's list. -/
def Background.code : Background → Nat | .solid => 0 | .checker => 1 | .rowstripe => 2 | .colstripe => 3

/-- Place of an operation in R91's list. -/
def MarchOp.code : MarchOp → Nat | .w0 => 0 | .w1 => 1 | .r0 => 2 | .r1 => 3

/-- Place of a spread in R91's list. -/
def Spread.code : Spread → Nat | .parallel => 0 | .serial => 1

/-- Place of a channel state in R63's list. -/
def ChanState.code : ChanState → Nat
  | .down => 0 | .idle => 1 | .test => 2 | .ready => 3 | .service => 4 | .resync => 5 | .lost => 6 | .failed => 7

/-- Place of a phase in R63's list. -/
def Phase.code : Phase → Nat
  | .discover => 0 | .poolcheck => 1 | .seedinstall => 2 | .main => 3 | .repairinstall => 4 | .verify => 5 | .releasing => 6

/-- Place of a cause in R63's list. -/
def Cause.code : Cause → Nat
  | .absent => 0 | .geometry => 1 | .linkLost => 2 | .linkError => 3 | .stepTimeout => 4 | .agent => 5 | .bankLimit => 6
  | .unrepairable => 7 | .dirFull => 8 | .protocol => 9

/-- Place of a link state in R126's list. -/
def LinkState.code : LinkState → Nat | .down => 0 | .training => 1 | .up => 2

/-- Place of an admission in R63's list. -/
def Admission.code : Admission → Nat | .none => 0 | .waiting _ => 1 | .held _ => 2

/-- State byte of an entry (R191); FREE is 0. -/
def EntryState.code : EntryState → Nat
  | .unresolved => 1 | .pending => 2 | .fencing => 3 | .installing => 4 | .refill => 5 | .active => 6 | .retireWait => 7
  | .retireFencing => 8 | .removing => 9

/-- State byte of an entry, FREE or not (R191). -/
def Entry.stateCode (e : Entry) : Nat :=
  match e.live with
  | none => 0
  | some r => r.st.code

/-- Origin byte (R191). -/
def Origin.code : Origin → Nat | .seed => 0 | .test => 1 | .score => 2 | .manual => 3

/-- Kind byte: 0 DEVICE, 1 POOL, 2 EXCLUDE (R189, R191). -/
def Replacement.kindCode : Replacement → Nat
  | .target (.device _ _) => 0
  | .target (.pool _) => 1
  | .exclude => 2

/-- A target's two bytes: group and index, or slot and 0 (R189). -/
def Target.bytes : Target → List Byte
  | .device g i => be1 g ++ be1 i
  | .pool s => be1 s ++ [0#8]

/-- The two target bytes of a replacement; an exclusion's are 0 (R189). -/
def Replacement.targetBytes : Replacement → List Byte
  | .target t => t.bytes
  | .exclude => zeros 2

/-- Place of a device spare's state in R26's list. -/
def SpareState.code : SpareState → Nat | .free => 0 | .used => 1 | .spent => 2

/-- Place of a pool slot's state in R26's list. -/
def SlotState.code : SlotState → Nat | .free => 0 | .used => 1 | .bad => 2

/-- Line code: 0 HI, 1 LO (R190). -/
def Line.code : Line → Nat | .hi => 0 | .lo => 1

/-- Last-loss code (R190). -/
def LastLoss.code : LastLoss → Nat | .none => 0 | .lapsed => 1 | .reset => 2

/-- A step's kind in two bytes (R190). -/
def StepKind.bytes : StepKind → List Byte
  | .poolcheck => [0#8, 0#8]
  | .plan n => 1#8 :: be1 n.val
  | .verify k => 2#8 :: be1 k

/-- Bank, scope and row: the five key bytes of a link payload (R189). -/
def rowKeyBytes (bank : Nat) (row : Option Nat) : List Byte :=
  match row with
  | some r => be1 bank ++ [0#8] ++ be3 r
  | none => be1 bank ++ [1#8] ++ zeros 3

/-- A key's six bytes in a management frame (R190). -/
def Key.bytes (k : Key) : List Byte := be1 k.chan.val ++ rowKeyBytes k.bank k.row

end Sys2Proof.Machine
end

