-- ==== Sys2Proof/Machine/Operands.lean ====
section
/-! DEFINITION. The operand forms: link frames out and in (R130, R187 to R189), and request and reply frames (R152, R153,
R190) with every request's operands. -/

namespace Sys2Proof.Machine

/-! ### Frames the part sends -/

/-- Type byte (R187). -/
def Msg.type : Msg → Byte
  | .init _ => 0x01#8
  | .discover => 0x02#8
  | .runStep .. => 0x03#8
  | .halt => 0x04#8
  | .install .. => 0x05#8
  | .remove .. => 0x06#8
  | .clearSet => 0x07#8
  | .fence .. => 0x08#8
  | .lift _ => 0x09#8
  | .release => 0x0A#8
  | .rowStatus .. => 0x0B#8

/-- Region code of a RUN_STEP (R189). -/
def Region.code : Region → Nat | .pool => 0 | .main => 1 | .repaired => 2

/-- The six operation places of a RUN_STEP, unused places 0xFF (R189). -/
def opPlaces (fill : Byte) (ops : List MarchOp) : List Byte :=
  ((ops.map fun o => BitVec.ofNat 8 o.code) ++ List.replicate 6 fill).take 6

/-- Status byte and five detail bytes of a ROW_STATUS (R189). -/
def RowStatus.bytes : RowStatus → List Byte
  | .normal => be1 0 ++ zeros 5
  | .watched s => be1 1 ++ be2 s ++ zeros 3
  | .repairedDevice g i => be1 2 ++ be1 0 ++ be1 g ++ be1 i ++ zeros 2
  | .repairedPool b r => be1 2 ++ be1 1 ++ be1 b ++ be3 r
  | .fenced => be1 3 ++ zeros 5
  | .excluded => be1 4 ++ zeros 5

/-- The payload of a message the part sends (R189). -/
def Msg.payload : Msg → List Byte
  | .init l => [1#8] ++ be1 l.val
  | .discover => []
  | .runStep tok d b ops k reg =>
    [tok] ++ be1 d.code ++ be1 b.code ++ be1 ops.length ++ opPlaces 0xFF#8 ops ++ be1 k ++ be1 reg.code
  | .halt => []
  | .install b r x => rowKeyBytes b r ++ be1 x.kindCode ++ x.targetBytes
  | .remove b r => rowKeyBytes b r
  | .clearSet => []
  | .fence sr b r => [sr] ++ rowKeyBytes b r
  | .lift sr => [sr]
  | .release => []
  | .rowStatus b r st => be1 b ++ be3 r ++ st.bytes

/-- The bytes of a frame on the lane: type, sequence number in the low four bits, length, payload, CRC (R130, R187, R188). -/
def TxFrame.bytes (f : TxFrame) : List Byte :=
  sealed ([f.msg.type, f.seq.zeroExtend 8, BitVec.ofNat 8 f.msg.payload.length] ++ f.msg.payload)

/-- The five types that wait in the in-flight list for an ACK (R138, R141). -/
def Msg.waits : Msg → Bool
  | .install .. | .remove .. | .clearSet | .release | .lift _ => true
  | .init _ | .discover | .runStep .. | .halt | .fence .. | .rowStatus .. => false

/-! ### Frames the part receives -/

/-- What the length and CRC checks make of arriving bytes (R132): a frame, or nothing. Bytes that are fewer than the length
byte calls for carry no agreeing CRC (log 9). -/
def parseLinkFrame (bytes : List Byte) : Option RxFrame :=
  match bytes with
  | ty :: sq :: len :: rest =>
    if len.toNat ≤ 28 ∧ (rest.drop len.toNat).take 2 = crcBytes (ty :: sq :: len :: rest.take len.toNat)
    then some ⟨ty, sq.truncate 4, rest.take len.toNat⟩ else none
  | _ => none

/-- The payload length of each client message; none for every other type byte (R187). -/
def clientLength (ty : Byte) : Option Nat :=
  if ty = 0x81#8 then some 1
  else if ty = 0x82#8 then some 21
  else if ty = 0x83#8 then some 2
  else if ty = 0x84#8 then some 5
  else if ty = 0x85#8 then some 2
  else if ty = 0x86#8 then some 6
  else if ty = 0x87#8 then some 5
  else if ty = 0x88#8 then some 4
  else none

/-- Byte n of a payload. -/
def RxFrame.at (f : RxFrame) (n : Nat) : Byte := f.payload.getD n 0#8

/-- Bytes of a payload as a number. -/
def RxFrame.num (f : RxFrame) (at_ width : Nat) : Nat := ofBytes ((f.payload.drop at_).take width)

/-- Well formed (R188): one of the eight client types with its length, and a code inside its set for the kind of a REPORT, the
scope of a DRAINED and the result of an ACK. -/
def RxFrame.wellFormed (f : RxFrame) : Bool :=
  clientLength f.type = some f.payload.length ∧
  (f.type = 0x87#8 → (f.at 4).toNat ≤ 2) ∧
  (f.type = 0x86#8 → (f.at 2).toNat ≤ 1) ∧
  (f.type = 0x85#8 → (f.at 1).toNat ≤ 1)

/-- A well-formed frame of the given type. -/
def RxFrame.is (f : RxFrame) (ty : Byte) : Bool := f.wellFormed && f.type == ty

/-- The fields of a GEOMETRY (R189). -/
def RxFrame.geometry (f : RxFrame) : Geometry where
  banks := f.num 0 1
  rowsPerBank := f.num 1 4
  banksPerGroup := f.num 5 1
  sparesPerGroup := f.num 6 1
  poolBank := f.num 7 1
  poolRows := f.num 8 1
  serial := (f.payload.drop 9).take 12

/-- Kinds of error a client reports (R48). -/
inductive ReportKind | ce1 | cem | ue
  deriving DecidableEq, Repr

/-- The kind byte of a REPORT (R189). -/
def reportKind (b : Byte) : ReportKind := if b = 0#8 then .ce1 else if b = 1#8 then .cem else .ue

/-- A key's bank and row from a DRAINED payload: scope 1 is the whole bank (R189; log 14). -/
def RxFrame.drainedRow (f : RxFrame) : Option Nat := if f.at 2 = 0#8 then some (f.num 3 3) else none

/-! ### Requests -/

/-- A key operand as its bytes give it (R190). -/
structure KeyOp where
  chan : Nat
  bank : Nat
  scope : Nat
  row : Nat
  deriving DecidableEq, Repr

/-- An optional operand: its mark and its field as the bytes give them (R190). -/
structure MarkOp where
  mark : Nat
  value : Nat
  deriving DecidableEq, Repr

/-- The step fields of a WRITE_PLAN as its bytes give them (R190). -/
structure StepOp where
  direction : Nat
  background : Nat
  mandatory : Nat
  spread : Nat
  count : Nat
  places : List Nat
  pause : Nat
  mask : Nat
  deriving DecidableEq, Repr

/-- The 25 requests with their operands as the bytes of the frame give them, in or out of range (R190). -/
inductive Request
  | getStatus
  | getChannel (chan : Nat)
  | getLink (link : Nat)
  | getInventory (chan : Nat) (sel : MarkOp)
  | readEntry (entry : Nat)
  | find (key : KeyOp)
  | nextEntry (start : Nat) (filter : MarkOp)
  | readWatch (start : Nat) (filter : MarkOp)
  | findWatch (chan bank row : Nat)
  | readCause
  | readPlan (slot : Nat)
  | readConfig (item : MarkOp)
  | seed (key : KeyOp) (tag : Nat) (mark t0 t1 : Nat)
  | addRepair (chan bank row : Nat)
  | retire (entry gen : Nat)
  | refilled (entry gen : Nat)
  | startTest (mask : Nat)
  | stopTest (mask : Nat)
  | release (chan : Nat)
  | writePlan (slot mark : Nat) (step : StepOp)
  | setConfig (item value : Nat)
  | clearAttention (mask : Nat)
  | setAttention (mask enable line : Nat)
  | grant (edit control : Nat)
  | controlReset
  deriving DecidableEq, Repr

/-- Request code (R190). -/
def Request.code : Request → Byte
  | .getStatus => 0x01#8
  | .getChannel _ => 0x02#8
  | .getLink _ => 0x03#8
  | .getInventory .. => 0x04#8
  | .readEntry _ => 0x05#8
  | .find _ => 0x06#8
  | .nextEntry .. => 0x07#8
  | .readWatch .. => 0x08#8
  | .findWatch .. => 0x09#8
  | .readCause => 0x0A#8
  | .readPlan _ => 0x0B#8
  | .readConfig _ => 0x0C#8
  | .seed .. => 0x0D#8
  | .addRepair .. => 0x0E#8
  | .retire .. => 0x0F#8
  | .refilled .. => 0x10#8
  | .startTest _ => 0x11#8
  | .stopTest _ => 0x12#8
  | .release _ => 0x13#8
  | .writePlan .. => 0x14#8
  | .setConfig .. => 0x15#8
  | .clearAttention _ => 0x16#8
  | .setAttention .. => 0x17#8
  | .grant .. => 0x18#8
  | .controlReset => 0x19#8

/-- Request classes (R163). -/
inductive RequestClass | inspect | edit | control | owner
  deriving DecidableEq, Repr

/-- A request's class (R163). -/
def Request.requestClass : Request → RequestClass
  | .getStatus | .getChannel _ | .getLink _ | .getInventory .. | .readEntry _ | .find _ | .nextEntry .. | .readWatch ..
  | .findWatch .. | .readCause | .readPlan _ | .readConfig _ => .inspect
  | .seed .. | .addRepair .. | .retire .. | .refilled .. => .edit
  | .startTest _ | .stopTest _ | .release _ | .writePlan .. | .setConfig .. | .clearAttention _ | .setAttention .. => .control
  | .grant .. | .controlReset => .owner

/-- A field of the operands: `width` bytes from place `at_` (R186). -/
def field (o : List Byte) (at_ width : Nat) : Nat := ofBytes ((o.drop at_).take width)

/-- A six-byte key operand from place `at_` (R190). -/
def keyField (o : List Byte) (at_ : Nat) : KeyOp :=
  ⟨field o at_ 1, field o (at_ + 1) 1, field o (at_ + 2) 1, field o (at_ + 3) 3⟩

/-- A mark byte and a one-byte field from place `at_` (R190). -/
def markField (o : List Byte) (at_ : Nat) : MarkOp := ⟨field o at_ 1, field o (at_ + 1) 1⟩

/-- The step bytes of a WRITE_PLAN, from place 2 (R190). -/
def stepField (o : List Byte) : StepOp where
  direction := field o 2 1
  background := field o 3 1
  mandatory := field o 4 1
  spread := field o 5 1
  count := field o 6 1
  places := ((o.drop 7).take 6).map BitVec.toNat
  pause := field o 13 1
  mask := field o 14 2

/-- The operand length that each code has; none for a code that names no request (R190). -/
def operandLength (code : Nat) : Option Nat :=
  [none, some 0, some 1, some 1, some 3, some 2, some 6, some 4, some 3, some 5, some 0, some 1, some 2, some 11, some 5,
   some 3, some 3, some 2, some 2, some 1, some 16, some 5, some 2, some 4, some 2, some 0].getD code none

/-- The request that a code and operand bytes of its length spell (R190). -/
def requestOf (code : Nat) (o : List Byte) : Option Request :=
  match code with
  | 0x01 => some .getStatus
  | 0x02 => some (.getChannel (field o 0 1))
  | 0x03 => some (.getLink (field o 0 1))
  | 0x04 => some (.getInventory (field o 0 1) (markField o 1))
  | 0x05 => some (.readEntry (field o 0 2))
  | 0x06 => some (.find (keyField o 0))
  | 0x07 => some (.nextEntry (field o 0 2) (markField o 2))
  | 0x08 => some (.readWatch (field o 0 1) (markField o 1))
  | 0x09 => some (.findWatch (field o 0 1) (field o 1 1) (field o 2 3))
  | 0x0A => some .readCause
  | 0x0B => some (.readPlan (field o 0 1))
  | 0x0C => some (.readConfig (markField o 0))
  | 0x0D => some (.seed (keyField o 0) (field o 6 2) (field o 8 1) (field o 9 1) (field o 10 1))
  | 0x0E => some (.addRepair (field o 0 1) (field o 1 1) (field o 2 3))
  | 0x0F => some (.retire (field o 0 2) (field o 2 1))
  | 0x10 => some (.refilled (field o 0 2) (field o 2 1))
  | 0x11 => some (.startTest (field o 0 2))
  | 0x12 => some (.stopTest (field o 0 2))
  | 0x13 => some (.release (field o 0 1))
  | 0x14 => some (.writePlan (field o 0 1) (field o 1 1) (stepField o))
  | 0x15 => some (.setConfig (field o 0 1) (field o 1 4))
  | 0x16 => some (.clearAttention (field o 0 2))
  | 0x17 => some (.setAttention (field o 0 2) (field o 2 1) (field o 3 1))
  | 0x18 => some (.grant (field o 0 1) (field o 1 1))
  | 0x19 => some .controlReset
  | _ => none

/-- The form check of R160: at least 5 bytes, an agreeing CRC, an operand length that agrees with the bytes received and is
the one of a code that names a request. Answers the tag and the request. -/
def parseRequest (bytes : List Byte) : Option (Byte × Request) :=
  match bytes with
  | tag :: code :: len :: rest =>
    if rest.length = len.toNat + 2 ∧ rest.drop len.toNat = crcBytes (tag :: code :: len :: rest.take len.toNat) ∧
        operandLength code.toNat = some len.toNat
    then (requestOf code.toNat (rest.take len.toNat)).map fun r => (tag, r) else none
  | _ => none

/-! ### Replies -/

/-- Status codes (R190). -/
inductive Status
  | ok | notReady | denied | badReq | badArg | notFound | stale | full | busy | fixed | inflight | excluded | exists | taken
  deriving DecidableEq, Repr

/-- Status byte (R190). -/
def Status.code : Status → Nat
  | .ok => 0 | .notReady => 1 | .denied => 2 | .badReq => 3 | .badArg => 4 | .notFound => 5 | .stale => 6 | .full => 7
  | .busy => 8 | .fixed => 9 | .inflight => 10 | .excluded => 11 | .exists => 12 | .taken => 13

/-- A reply frame: tag, code, status, payload length, payload, CRC (R153, R190). -/
def replyFrame (tag code : Byte) (st : Status) (payload : List Byte) : List Byte :=
  sealed ([tag, code] ++ be1 st.code ++ be1 payload.length ++ payload)

/-- The frame of a request: what a master writes (R152). -/
def requestFrame (tag code : Byte) (operands : List Byte) : List Byte :=
  sealed ([tag, code] ++ be1 operands.length ++ operands)

end Sys2Proof.Machine
end

