-- ==== Sys2Proof/Machine/Ops.lean ====
section
/-! DEFINITION. Named operations over the tables: one home for every read and write of the directory, the inventories, the
watch table, the channel records, the links, the fence units and the attention records. -/

namespace Sys2Proof.Machine

/-- What the blocks read but do not write: configuration, plan and Time Base. -/
structure Env where
  items : Items
  plan : Vector (Option PlanStep) 16
  now : BitVec 32
  deriving DecidableEq, Repr

/-- What the part's blocks see of configuration, plan and time. -/
def State.env (s : State) : Env := ⟨s.items, s.plan, s.now⟩

/-! ### Channels -/

/-- Links 0 to 7 are BUFFER channels and links 8 to 11 TABLE channels. -/
def isBuffer (c : ChanId) : Bool := c.val < 8

/-- A channel's power weight: BUFFER 3, TABLE 1 (R101). -/
def weight (c : ChanId) : Nat := if isBuffer c then 3 else 1

/-- All channels in ascending order. -/
def allChans : List ChanId := List.finRange 12

/-- Change one channel record. -/
def Body.modChan (b : Body) (c : ChanId) (f : Channel → Channel) : Body :=
  { b with chan := b.chan.set c (f b.chan[c]) }

/-- Change one link record. -/
def Body.modLink (b : Body) (c : ChanId) (f : Link → Link) : Body :=
  { b with link := b.link.set c (f b.link[c]) }

/-- Change one channel's inventory, if it has one. -/
def Body.modInv (b : Body) (c : ChanId) (f : Inventory → Inventory) : Body :=
  { b with inv := b.inv.set c (b.inv[c].map f) }

/-- A BUFFER client's fence unit; a TABLE channel has none (R107). -/
def Body.fenceOf (b : Body) (c : ChanId) : FenceUnit :=
  if h : c.val < 8 then b.fence[c.val] else FenceUnit.initial

/-- Change a BUFFER client's fence unit. -/
def Body.modFence (b : Body) (c : ChanId) (f : FenceUnit → FenceUnit) : Body :=
  if h : c.val < 8 then { b with fence := b.fence.set c.val (f b.fence[c.val]) } else b

/-- The channel's link is UP. -/
def Body.linkUp (b : Body) (c : ChanId) : Bool := b.link[c].state == .up

/-- Time since run start, modulo 2^32 (R63). -/
def Body.elapsed (env : Env) (b : Body) (c : ChanId) : Nat := (env.now - (b.chan[c].runStart.getD env.now)).toNat

/-! ### Directory -/

/-- The entries with their numbers, in ascending number. -/
def Body.numbered (b : Body) : List (EntryNo × Entry) := (List.finRange 1024).zip b.dir.toList

/-- The numbers of the non-FREE entries that satisfy `p`, in ascending order. -/
def Body.entriesWhere (b : Body) (p : Live → Bool) : List EntryNo :=
  (b.numbered.filter fun x => x.2.live.any p).map (·.1)

/-- Whether a non-FREE entry satisfies `p`. -/
def Body.anyEntry (b : Body) (p : Live → Bool) : Bool := b.dir.toList.any fun e => e.live.any p

/-- The lowest-numbered non-FREE entry that satisfies `p`. -/
def Body.findEntry (b : Body) (p : Live → Bool) : Option EntryNo :=
  (b.numbered.find? fun x => x.2.live.any p).map (·.1)

/-- The entry that holds a key; at most one does (R3). -/
def Body.findKey (b : Body) (k : Key) : Option EntryNo := b.findEntry fun r => r.key == k

/-- The lowest-numbered FREE entry (R4). -/
def Body.lowestFree (b : Body) : Option EntryNo := (b.numbered.find? fun x => x.2.live.isNone).map (·.1)

/-- The bank holds a non-FREE whole-bank entry (R3, R41). -/
def Body.excluded (b : Body) (c : ChanId) (bank : Nat) : Bool := b.anyEntry fun r => r.key == ⟨c, bank, none⟩

/-- Write an entry as one change: its generation increases by 1, 255 followed by 0 (R5). -/
def Body.changeEntry (b : Body) (e : EntryNo) (l : Option Live) : Body :=
  { b with dir := b.dir.set e ⟨b.dir[e].gen + 1#8, l⟩ }

/-- Move an entry to another state (R5). -/
def Body.setEntryState (b : Body) (e : EntryNo) (st : EntryState) : Body :=
  match b.dir[e].live with
  | none => b
  | some r => b.changeEntry e (some { r with st := st })

/-! ### Inventory -/

/-- The bank group of a bank (R28). -/
def Geometry.group (g : Geometry) (bank : Nat) : Nat := bank / g.banksPerGroup

/-- The number of bank groups (R28). -/
def Geometry.groups (g : Geometry) : Nat := g.banks / g.banksPerGroup

/-- The physical row of a pool slot (R28). -/
def Geometry.slotRow (g : Geometry) (slot : Nat) : Nat := g.rowsPerBank - g.poolRows + slot

/-- The row lies in the pool region of the pool bank (R28). -/
def Geometry.inPool (g : Geometry) (bank row : Nat) : Bool :=
  bank == g.poolBank && decide (g.rowsPerBank - g.poolRows ≤ row) && decide (row < g.rowsPerBank)

/-- The bank and row lie in the geometry. -/
def Geometry.holds (g : Geometry) (bank row : Nat) : Bool := decide (bank < g.banks) && decide (row < g.rowsPerBank)

/-- A fresh inventory: every spare and slot FREE, no exclusion, every tally 0 (R42). -/
def Inventory.build (g : Geometry) : Inventory where
  geo := g
  tag := crc16 g.serial
  spares := List.replicate g.groups (List.replicate g.sparesPerGroup .free)
  slots := List.replicate g.poolRows .free
  exclusions := 0
  tallies := List.replicate g.banks 0

/-- State of a device spare. -/
def Inventory.spare (v : Inventory) (group index : Nat) : Option SpareState := (v.spares.getD group [])[index]?

/-- Set the state of a device spare. -/
def Inventory.setSpare (v : Inventory) (group index : Nat) (st : SpareState) : Inventory :=
  { v with spares := v.spares.modify group fun l => l.set index st }

/-- Set the state of a pool slot. -/
def Inventory.setSlot (v : Inventory) (slot : Nat) (st : SlotState) : Inventory := { v with slots := v.slots.set slot st }

/-- The lowest-numbered FREE pool slot (R36). -/
def Inventory.freeSlot (v : Inventory) : Option Nat := v.slots.findIdx? (· == .free)

/-- The lowest-indexed FREE spare of a group (R36). -/
def Inventory.freeSpare (v : Inventory) (group : Nat) : Option Nat := (v.spares.getD group []).findIdx? (· == .free)

/-- The number of pool slots in a state. -/
def Inventory.slotCount (v : Inventory) (st : SlotState) : Nat := v.slots.count st

/-- The number of device spares in a state, over all groups. -/
def Inventory.spareCount (v : Inventory) (st : SpareState) : Nat := (v.spares.map (·.count st)).sum

/-- FREE pool slots of a channel; a channel with no inventory has none. -/
def Body.freeSlots (b : Body) (c : ChanId) : Nat := (b.inv[c].map (·.slotCount .free)).getD 0

/-- Mark a chosen replacement taken: a spare or slot becomes USED, a row exclusion is counted (R36). -/
def Inventory.take (v : Inventory) : Replacement → Inventory
  | .target (.device g i) => v.setSpare g i .used
  | .target (.pool s) => v.setSlot s .used
  | .exclude => { v with exclusions := v.exclusions + 1 }

/-- Mark the failed target of a retarget or a conversion: a slot BAD, a spare SPENT (R16, R17). -/
def Inventory.spoil (v : Inventory) : Target → Inventory
  | .device g i => v.setSpare g i .spent
  | .pool s => v.setSlot s .bad

/-- What freeing an entry returns, by its kind and the state it was in (R18). -/
def Inventory.giveBack (v : Inventory) (r : Live) : Inventory :=
  match r.repl with
  | none => v
  | some (.target (.device g i)) =>
    v.setSpare g i (if r.st = .pending ∨ r.st = .fencing then .free else .spent)
  | some (.target (.pool s)) => v.setSlot s .free
  | some .exclude => if r.key.row.isSome then { v with exclusions := v.exclusions - 1 } else v

/-- R36: a device spare of the row's bank group when the channel is in TEST and DEVICE_SPARES_USE is 1, then the lowest FREE
pool slot, then a row exclusion on a BUFFER channel that holds fewer than 32. -/
def Body.choose (env : Env) (b : Body) (c : ChanId) (bank : Nat) : Option Replacement :=
  match b.inv[c] with
  | none => none
  | some v =>
    let g := v.geo.group bank
    let device :=
      if b.chan[c].state = .test ∧ env.items.deviceSparesUse = 1
      then (v.freeSpare g).map fun i => Replacement.target (.device g i) else none
    let pool := v.freeSlot.map fun s => Replacement.target (.pool s)
    let excl := if isBuffer c ∧ v.exclusions < Config.exclusionMax then some Replacement.exclude else none
    (device.orElse fun _ => pool).orElse fun _ => excl

/-! ### REPAIRED list and watch table -/

/-- Remove a row from a channel's REPAIRED list (R73). -/
def Body.forgetRepaired (b : Body) (k : Key) : Body :=
  match k.row with
  | none => b
  | some r => b.modChan k.chan fun ch => { ch with repaired := ch.repaired.filter (· != ⟨k.bank, r⟩) }

/-- Add a row at the tail of a channel's REPAIRED list, if it is not there (R73). -/
def Body.addRepaired (b : Body) (c : ChanId) (rk : RowKey) : Body :=
  b.modChan c fun ch => if rk ∈ ch.repaired then ch else { ch with repaired := ch.repaired ++ [rk] }

/-- The repair count of a run, which stops at 65535 (R79). -/
def Body.countRepair (b : Body) (c : ChanId) : Body :=
  b.modChan c fun ch => { ch with repairs := min (ch.repairs + 1) 65535 }

/-- The watch records with their indices. -/
def Body.numberedWatch (b : Body) : List (WatchNo × Option Watch) := (List.finRange 256).zip b.watch.toList

/-- The record watches this row. -/
def Watch.isFor (w : Watch) (c : ChanId) (bank row : Nat) : Bool := w.chan == c && w.bank == bank && w.row == row

/-- The record in use for a row. -/
def Body.findWatch (b : Body) (c : ChanId) (bank row : Nat) : Option WatchNo :=
  (b.numberedWatch.find? fun x => x.2.any (·.isFor c bank row)).map (·.1)

/-- The lowest-indexed free record (R50). -/
def Body.freeWatch (b : Body) : Option WatchNo := (b.numberedWatch.find? fun x => x.2.isNone).map (·.1)

/-- The number of records in use. -/
def Body.watchCount (b : Body) : Nat := b.watch.toList.countP Option.isSome

/-- Free every record that satisfies `p`. -/
def Body.dropWatch (b : Body) (p : Watch → Bool) : Body :=
  { b with watch := b.watch.map fun o => o.filter fun w => !p w }

/-- Free the record for a key, if there is one (R13); a whole-bank key has none. -/
def Body.unwatch (b : Body) (k : Key) : Body :=
  match k.row with
  | none => b
  | some r => b.dropWatch (·.isFor k.chan k.bank r)

/-! ### Sending -/

/-- R137, R140: a frame offered to a link that is UP joins the send queue; with 176 frames there it is a send overflow; a link
that is not UP, or that has overflowed in this change, discards it. -/
def Link.offer (k : Link) (q : QFrame) : Link :=
  if k.state = .up ∧ k.overflow = false then
    if k.sendq.length < Config.sendQueueMax then { k with sendq := k.sendq ++ [q] } else { k with overflow := true }
  else k

/-- Offer a frame to a channel's link. -/
def Body.offer (b : Body) (c : ChanId) (m : Msg) (n : Note) : Body := b.modLink c (·.offer ⟨m, n⟩)

/-! ### Entries: creating, freeing, installing -/

/-- Create an entry in a FREE record (R8). -/
def Body.createEntry (b : Body) (e : EntryNo) (l : Live) : Body := b.changeEntry e (some l)

/-- Free an entry: it leaves its fence queue and the REPAIRED list, and returns what it held (R18, R73). -/
def Body.freeEntry (b : Body) (e : EntryNo) : Body :=
  match b.dir[e].live with
  | none => b
  | some r =>
    (((b.modInv r.key.chan (·.giveBack r)).modFence r.key.chan fun u => { u with queue := u.queue.filter (· != e) }
      ).forgetRepaired r.key).changeEntry e none

/-- Free an entry that returns nothing (R43, R44). -/
def Body.forgetEntry (b : Body) (e : EntryNo) : Body := b.changeEntry e none

/-- An entry becomes ACTIVE, and the watch record of its key is freed (R13). -/
def Body.activate (b : Body) (e : EntryNo) : Body :=
  match b.dir[e].live with
  | none => b
  | some r => (b.setEntryState e .active).unwatch r.key

/-- Send INSTALL for an entry, which becomes INSTALLING; the note keeps its new generation (R10, R137). -/
def Body.sendInstall (b : Body) (e : EntryNo) (resync : Bool) : Body :=
  match b.dir[e].live with
  | none => b
  | some r =>
    match r.repl with
    | none => b
    | some x =>
      let b1 := b.setEntryState e .installing
      b1.offer r.key.chan (.install r.key.bank r.key.row x) (.directory e b1.dir[e].gen resync)

/-- Send INSTALL for an entry in force, its state and generation unchanged (R13, R14, R122). -/
def Body.resendInstall (b : Body) (e : EntryNo) : Body :=
  match b.dir[e].live with
  | none => b
  | some r =>
    match r.repl with
    | none => b
    | some x => b.offer r.key.chan (.install r.key.bank r.key.row x) (.directory e b.dir[e].gen true)

/-- Send REMOVE for an entry, which becomes REMOVING (R15, R19). -/
def Body.sendRemove (b : Body) (e : EntryNo) : Body :=
  match b.dir[e].live with
  | none => b
  | some r =>
    let b1 := b.setEntryState e .removing
    b1.offer r.key.chan (.remove r.key.bank r.key.row) (.directory e b1.dir[e].gen false)

/-- R16, steps 1 to 3: choose a new target with the old one still USED, mark the old one, and make the entry PENDING with the
new one. None when no target is left; the entry is then unchanged (R37). `round`: the VERIFY round, if one is running. -/
def Body.retarget (env : Env) (b : Body) (e : EntryNo) (round : Option Nat) : Option Body :=
  match b.dir[e].live with
  | none => none
  | some r =>
    match r.repl with
    | some (.target t) =>
      match b.choose env r.key.chan r.key.bank with
      | none => none
      | some x =>
        some (((b.modInv r.key.chan fun v => (v.take x).spoil t).forgetRepaired r.key).changeEntry e
          (some { r with st := .pending, repl := some x, round := round.getD r.round }))
    | _ => none

/-- R17: the entry becomes a row exclusion, PENDING; its old target is marked. The caller has checked the count. -/
def Body.convert (b : Body) (e : EntryNo) (round : Nat) : Body :=
  match b.dir[e].live with
  | none => b
  | some r =>
    match r.repl with
    | some (.target t) =>
      ((b.modInv r.key.chan fun v => (v.take .exclude).spoil t).forgetRepaired r.key).changeEntry e
        (some { r with st := .pending, repl := some .exclude, round := round })
    | _ => b

/-- What R21 does to one entry of a channel whose work is abandoned. -/
def Body.settleEntry (b : Body) (e : EntryNo) : Body :=
  match b.dir[e].live with
  | none => b
  | some r =>
    match r.st with
    | .fencing | .installing => b.setEntryState e .pending
    | .retireWait | .retireFencing | .removing => b.freeEntry e
    | .unresolved | .pending | .active | .refill => b

/-- R21: settle every entry of the channel and empty its fence queue. -/
def Body.settle (b : Body) (c : ChanId) : Body :=
  ((b.entriesWhere fun r => r.key.chan == c).foldl Body.settleEntry b).modFence c fun u => { u with queue := [] }

end Sys2Proof.Machine
end

