-- ==== Sys2Proof/Machine/Flags.lean ====
section
/-! DEFINITION. The attention records: occurrences of the edge conditions, the two level conditions, and the two lines. -/

namespace Sys2Proof.Machine

/-- An occurrence of an edge condition (R176): the first since the last clear is captured, a later one sets MORE. -/
def CondRec.occur (r : CondRec) (v : CondValue) : CondRec :=
  if r.pending then { r with more := true } else { r with pending := true, value := some v }

/-- Change one condition record. -/
def Body.modCond (b : Body) (k : Condition) (f : CondRec → CondRec) : Body :=
  { b with att := b.att.set k.num (f b.att[k.num]) }

/-- Raise an edge condition with its value (R176, R177). -/
def Body.raise (b : Body) (k : Condition) (v : CondValue) : Body := b.modCond k (·.occur v)

/-- The channel meets BUDGET_EXPIRED (R178). -/
def Body.meetsBudget (env : Env) (b : Body) (c : ChanId) : Bool :=
  b.chan[c].state == .test && decide (env.items.bootBudget ≤ b.elapsed env c)

/-- The channel meets POOL_LOW (R179). -/
def Body.meetsPoolLow (env : Env) (b : Body) (c : ChanId) : Bool :=
  b.chan[c].state == .service && decide (b.freeSlots c < env.items.poolLowMark)

/-- The pending fields of the two level conditions follow the state that defines them (R175, R178, R179). -/
def Body.refreshLevels (env : Env) (b : Body) : Body :=
  (b.modCond .budgetExpired fun r => { r with pending := allChans.any (b.meetsBudget env) }).modCond .poolLow
    fun r => { r with pending := allChans.any (b.meetsPoolLow env) }

/-- A condition that is both pending and enabled holds its line (R180). -/
def CondRec.holds (r : CondRec) (l : Line) : Bool := r.pending && r.enable && r.line == l

/-- Whether a line is asserted; both are released while RSTn is low (R180, R192). -/
def State.line (s : State) (l : Line) : Bool := !s.inReset && s.body.att.toList.any (·.holds l)

/-- CLEAR_ATTENTION on one record (R182). -/
def CondRec.clear (r : CondRec) : CondRec := { r with pending := false, more := false, value := none }

/-- The level conditions BUDGET_EXPIRED and POOL_LOW (R174). -/
def isLevel (n : Fin 10) : Bool := n == Condition.budgetExpired.num || n == Condition.poolLow.num

end Sys2Proof.Machine
end

