-- ==== Sys2Proof/Machine/Sequencer.lean ====
section
/-! DEFINITION. The Test Sequencer: the power-admission arbiter, steps, the phases of a run, stopping and failing. -/

namespace Sys2Proof.Machine

/-! ### Power admission -/

/-- The channel holds admission. -/
def Admission.isHeld : Admission → Bool | .held _ => true | .none | .waiting _ => false

/-- The channel waits for admission. -/
def Admission.isWaiting : Admission → Bool | .waiting _ => true | .none | .held _ => false

/-- The units in use: the sum of the weights of the HELD channels (R101). -/
def Body.unitsInUse (b : Body) : Nat := (allChans.map fun c => if b.chan[c].admission.isHeld then weight c else 0).sum

/-- The number of WAITING channels (R106). -/
def Body.waitingCount (b : Body) : Nat := allChans.countP fun c => b.chan[c].admission.isWaiting

/-- Some HELD channel holds admission for the same plan slot (R103). -/
def Body.slotHeld (b : Body) (k : StepKind) : Bool :=
  allChans.any fun c => match k, b.chan[c].admission with
    | .plan n, .held a => a.kind == .plan n
    | _, _ => false

/-- R103: the channel's weight fits the free units, and a SERIAL step meets no holder of its slot. -/
def Body.fits (env : Env) (b : Body) (c : ChanId) (a : Ask) : Bool :=
  decide (b.unitsInUse + weight c ≤ env.items.powerCeiling) && (a.spread == .parallel || !b.slotHeld a.kind)

/-- The RUN_STEP of a step: the built-in elements of R98, or the slot's parameters as they stand (R100). -/
def runStepMsg (env : Env) (k : StepKind) (token : Byte) : Option Msg :=
  match k with
  | .poolcheck => some (.runStep token .up .solid [.w0, .r0, .w1, .r1] 0 .pool)
  | .verify _ => some (.runStep token .up .checker [.w1, .r1, .w0, .r0] 0 .repaired)
  | .plan n => env.plan[n].map fun p => .runStep token p.direction p.background p.ops p.pause .main

/-- The region a step takes: the whole REPAIRED list for a VERIFY round (R73). -/
def stepRegion (k : StepKind) (repaired : List RowKey) : List RowKey :=
  match k with
  | .verify _ => repaired
  | .poolcheck | .plan _ => []

/-- The REPAIRED list after a step has started: a VERIFY round empties it (R73). -/
def repairedAfter (k : StepKind) (repaired : List RowKey) : List RowKey :=
  match k with
  | .verify _ => []
  | .poolcheck | .plan _ => repaired

/-- R68, R99: the channel becomes HELD, its step takes the next token, the step timer starts and RUN_STEP is sent. -/
def Body.startStep (env : Env) (b : Body) (c : ChanId) (a : Ask) : Body :=
  let token := b.chan[c].nextToken
  let b1 := b.modChan c fun ch =>
    { ch with
      admission := .held a
      step := some ⟨a.kind, token, stepRegion a.kind ch.repaired⟩
      repaired := repairedAfter a.kind ch.repaired
      nextToken := token + 1#8
      stepTimer := some (env.items.stepTimeout * 1000) }
  match runStepMsg env a.kind token with
  | none => b1
  | some m => b1.offer c m .none

/-- One visit of the scan (R103). -/
def Body.visit (env : Env) (b : Body) (c : ChanId) : Body :=
  match b.chan[c].admission with
  | .waiting a => if b.fits env c a then b.startStep env c a else b
  | .none | .held _ => b

/-- The arbiter's scan of channels 0 to 11 (R103). -/
def Body.scan (env : Env) (b : Body) : Body := allChans.foldl (Body.visit env) b

/-- A channel that is to run a step becomes WAITING, and the arbiter scans (R102). -/
def Body.ask (env : Env) (b : Body) (c : ChanId) (k : StepKind) (sp : Spread) : Body :=
  (b.modChan c fun ch => { ch with admission := .waiting ⟨k, sp⟩ }).scan env

/-! ### Leaving work -/

/-- A channel record with every wait, step and walk of a run gone. -/
def Channel.quiet (ch : Channel) : Channel :=
  { ch with
    phase := none
    planPos := none
    step := none
    admission := .none
    releaseOut := false
    installPos := none
    walkPos := none
    awaited := none
    linkWait := none
    geomWait := none
    stepTimer := none }

/-- A note after its channel was stopped or started: its RELEASE is abandoned (R80). -/
def Note.abandon : Note → Note
  | .release k _ => .release k true
  | n => n

/-- The RELEASE frames of a link, queued or in flight, are abandoned (R65, R80). -/
def Link.abandonReleases (k : Link) : Link :=
  { k with
    sendq := k.sendq.map fun q => { q with note := q.note.abandon }
    inflight := k.inflight.map fun f => { f with note := f.note.abandon } }

/-- A fence that a failure ends is lifted and dropped (R118). -/
def Body.liftFence (b : Body) (c : ChanId) : Body :=
  match (b.fenceOf c).out with
  | none => b
  | some f => (b.offer c (.lift f.serial) (.lift f.serial)).modFence c fun u => { u with out := none }

/-- R85: entry to FAILED. A channel already FAILED keeps its first cause and raises nothing. Units it held return to the
arbiter, which scans (R104). -/
def Body.failChannel (env : Env) (b : Body) (c : ChanId) (cause : Cause) : Body :=
  if b.chan[c].state = .failed then b else
    let wasHeld := b.chan[c].admission.isHeld
    let b1 := if b.chan[c].state = .test then b.offer c .halt .none else b
    let b2 := ((b1.liftFence c).modChan c fun ch => { ch.quiet with state := .failed, cause := some cause }).settle c
    let b3 := b2.raise .channelFailed (.failed c cause)
    if wasHeld then b3.scan env else b3

/-- R84, without the arbiter's scan: stop one channel in TEST. -/
def Body.stopChannel (b : Body) (c : ChanId) : Body :=
  let b1 := (b.offer c .halt .none).modLink c Link.abandonReleases
  (b1.modChan c fun ch => { ch.quiet with state := if b1.linkUp c then .idle else .down }).settle c

/-- Stop every channel of a list that is in TEST; the arbiter scans once if any of them held units (R84, R104). -/
def Body.stopChannels (env : Env) (b : Body) (cs : List ChanId) : Body :=
  let stopped := cs.filter fun c => b.chan[c].state == .test
  let wasHeld := stopped.any fun c => b.chan[c].admission.isHeld
  let b1 := stopped.foldl Body.stopChannel b
  if wasHeld then b1.scan env else b1

/-- The step ends: its timer stops, it becomes absent, and its units return to the arbiter, which scans (R68, R104). -/
def Body.endStep (env : Env) (b : Body) (c : ChanId) : Body :=
  (b.modChan c fun ch => { ch with step := none, admission := .none, stepTimer := none }).scan env

/-! ### The phases of a run -/

/-- DISCOVER is sent and the GEOMETRY wait starts (R67). -/
def Body.sendDiscover (env : Env) (b : Body) (c : ChanId) : Body :=
  (b.offer c .discover .none).modChan c fun ch => { ch with linkWait := none, geomWait := some env.items.ackTimeout }

/-- R65, R66: the channel enters TEST/DISCOVER. -/
def Body.enterDiscover (env : Env) (b : Body) (c : ChanId) : Body :=
  let b1 := ((b.settle c).modInv c fun v => { v with tallies := v.tallies.map fun _ => 0 }).modLink c Link.abandonReleases
  let b2 := b1.modChan c fun ch =>
    { ch.quiet with
      state := .test
      phase := some .discover
      cause := none
      runStart := some env.now
      repaired := []
      skipped := 0
      repairs := 0
      verifyRound := 0
      roundFailed := false }
  if b2.linkUp c then b2.sendDiscover env c
  else b2.modChan c fun ch => { ch with linkWait := some env.items.discoverWait }

/-- The channel enters READY from TEST/RELEASING (R80). -/
def Body.enterReady (b : Body) (c : ChanId) : Body :=
  (b.modChan c fun ch => { ch.quiet with state := .ready }).raise .testDone
    (.testDone c b.chan[c].skipped b.chan[c].repairs)

/-- R80: RELEASE is sent, or the channel moves to READY. -/
def Body.enterReleasing (env : Env) (b : Body) (c : ChanId) : Body :=
  if env.items.autoRelease = 1 then
    (b.offer c .release (.release .run false)).modChan c fun ch => { ch with phase := some .releasing, releaseOut := true }
  else b.enterReady c

/-- R76: a VERIFY round starts, or ends VERIFY at once when the REPAIRED list is empty. -/
def Body.enterVerify (env : Env) (b : Body) (c : ChanId) : Body :=
  let k := b.chan[c].verifyRound + 1
  let b1 := b.modChan c fun ch => { ch with phase := some .verify, verifyRound := k, roundFailed := false }
  if b.chan[c].repaired = [] then b1.enterReleasing env c else b1.ask env c (.verify k) .parallel

/-- R139: offer INSTALL for the PENDING entries of a run until the send queue holds 160 frames; the entry that would be next
is the position at which the run stops. -/
def Body.runInstalls (c : ChanId) : List EntryNo → Body → Body
  | [], b => b.modChan c fun ch => { ch with installPos := none }
  | e :: es, b =>
    if Config.runMax ≤ b.link[c].sendq.length then b.modChan c fun ch => { ch with installPos := some e.val }
    else Body.runInstalls c es (b.sendInstall e false)

/-- The run of an install phase goes on from its position, if it has one (R139). -/
def Body.continueInstalls (b : Body) (c : ChanId) : Body :=
  match b.chan[c].installPos with
  | none => b
  | some p => Body.runInstalls c ((b.entriesWhere fun r => r.key.chan == c && r.st == .pending).filter (p ≤ ·.val)) b

/-- The channel holds a PENDING or INSTALLING entry (R72). -/
def Body.installsOpen (b : Body) (c : ChanId) : Bool :=
  b.anyEntry fun r => r.key.chan == c && (r.st == .pending || r.st == .installing)

/-- Entry to an install phase: its run of INSTALL frames begins (R72). -/
def Body.beginInstalls (b : Body) (c : ChanId) (ph : Phase) : Body :=
  (b.modChan c fun ch => { ch with phase := some ph, planPos := none, installPos := some 0 }).continueInstalls c

/-- What follows REPAIRINSTALL (R78): the next VERIFY round, or RELEASING after a round at or above VERIFY_ROUNDS. -/
def Body.afterRepairInstall (env : Env) (b : Body) (c : ChanId) : Body :=
  if b.chan[c].verifyRound < env.items.verifyRounds then b.enterVerify env c else b.enterReleasing env c

/-- REPAIRINSTALL; a phase entered with no PENDING entry ends at once (R72). -/
def Body.enterRepairInstall (env : Env) (b : Body) (c : ChanId) : Body :=
  let b1 := b.beginInstalls c .repairinstall
  if b1.installsOpen c then b1 else b1.afterRepairInstall env c

/-- R74: the walk over plan slots: an EMPTY slot or one whose mask lacks the channel is passed over, an optional step reached
at or past BOOT_BUDGET is skipped, and any other step is asked for. After the last slot MAIN ends. -/
def Body.walkPlan (env : Env) (c : ChanId) : List SlotNo → Body → Body
  | [], b => b.enterRepairInstall env c
  | n :: ns, b =>
    let b1 := b.modChan c fun ch => { ch with planPos := some n }
    match env.plan[n] with
    | none => Body.walkPlan env c ns b1
    | some p =>
      if p.mask.getLsbD c.val = false then Body.walkPlan env c ns b1
      else if p.mandatory = false ∧ env.items.bootBudget ≤ b.elapsed env c then
        Body.walkPlan env c ns (b1.modChan c fun ch => { ch with skipped := ch.skipped + 1 })
      else b1.ask env c (.plan n) p.spread

/-- The slots from `n` on. -/
def slotsFrom (n : Nat) : List SlotNo := (List.finRange 16).drop n

/-- Entry to MAIN (R74). -/
def Body.enterMain (env : Env) (b : Body) (c : ChanId) : Body :=
  Body.walkPlan env c (slotsFrom 0) (b.modChan c fun ch => { ch with phase := some .main })

/-- SEEDINSTALL (R72). -/
def Body.enterSeedInstall (env : Env) (b : Body) (c : ChanId) : Body :=
  let b1 := b.beginInstalls c .seedinstall
  if b1.installsOpen c then b1 else b1.enterMain env c

/-- POOLCHECK, or straight on to SEEDINSTALL when there are no pool rows (R71). -/
def Body.enterPoolcheck (env : Env) (b : Body) (c : ChanId) : Body :=
  let b1 := b.modChan c fun ch => { ch with phase := some .poolcheck }
  if (b.inv[c].map (·.geo.poolRows)).getD 0 = 0 then b1.enterSeedInstall env c else b1.ask env c .poolcheck .parallel

/-- An install phase ends when the channel holds no PENDING and no INSTALLING entry (R72); its run of frames ends with it. -/
def Body.checkInstallPhase (env : Env) (b : Body) (c : ChanId) : Body :=
  if b.chan[c].state = .test ∧ b.installsOpen c = false then
    let b1 := b.modChan c fun ch => { ch with installPos := none }
    match b.chan[c].phase with
    | some .seedinstall => b1.enterMain env c
    | some .repairinstall => b1.afterRepairInstall env c
    | _ => b
  else b

end Sys2Proof.Machine
end

