-- ==== Sys2Proof/Machine/Rediscovery.lean ====
section
/-! DEFINITION. A GEOMETRY taken: its ranges (R27), the watch records of the channel (R59), and the rediscovery claim
(R42 to R46). -/

namespace Sys2Proof.Machine

/-- Rows per bank: a power of two from 1024 to 131072 (R27). -/
def rowCounts : List Nat := [1024, 2048, 4096, 8192, 16384, 32768, 65536, 131072]

/-- Every field of a GEOMETRY lies in its range (R27). -/
def Geometry.accepted (g : Geometry) : Bool :=
  decide (1 ≤ g.banks ∧ g.banks ≤ 32) && decide (g.rowsPerBank ∈ rowCounts) &&
  decide (1 ≤ g.banksPerGroup ∧ g.banksPerGroup ≤ 8 ∧ g.banks % g.banksPerGroup = 0) && decide (g.sparesPerGroup ≤ 4) &&
  decide (g.poolBank < g.banks) && decide (g.poolRows ≤ 128 ∧ g.poolRows < g.rowsPerBank)

/-- A row that the geometry holds as an ordinary row: inside it and outside the pool region (R28). -/
def Geometry.ordinary (g : Geometry) (bank row : Nat) : Bool := g.holds bank row && !g.inPool bank row

/-- R59: which of the channel's watch records a new GEOMETRY frees. A channel that had no inventory has no tag to agree with
(log 21). -/
def rediscoveryFrees (c : ChanId) (old : Option Inventory) (g : Geometry) (w : Watch) : Bool :=
  w.chan == c && (old.map (·.tag) != some (crc16 g.serial) || !g.ordinary w.bank w.row)

/-- The entry still belongs to the channel's memory (R43): tag, bank and row. -/
def Live.belongs (r : Live) (v : Inventory) : Bool :=
  (r.tag == v.tag || (r.origin == .seed && r.tag == 0#16)) && decide (r.key.bank < v.geo.banks) &&
    r.key.row.all fun row => v.geo.ordinary r.key.bank row

/-- R45: whether a held or requested replacement can be kept in the rebuilt inventory. -/
def Inventory.keeps (env : Env) (v : Inventory) (c : ChanId) (bank : Nat) : Replacement → Bool
  | .target (.pool s) => v.slots[s]? == some .free
  | .target (.device g i) => env.items.deviceSparesUse == 1 && g == v.geo.group bank && v.spare g i == some .free
  | .exclude => isBuffer c && decide (v.exclusions < Config.exclusionMax)

/-- What an entry holds or asks for: its replacement, or in UNRESOLVED its requested target (R45). -/
def Live.wanted (r : Live) : Option Replacement :=
  match r.repl with
  | some x => some x
  | none => r.requested.map .target

/-- The former target that an entry made UNRESOLVED keeps as its requested target (R45). -/
def Live.former (r : Live) : Option Target :=
  match r.repl with
  | some (.target t) => some t
  | some .exclude => none
  | none => r.requested

/-- R45, R46: give a row entry a target; PENDING with it, or UNRESOLVED when nothing is left. In both cases it takes the new device
tag as part of its claim (R43; log 17). -/
def Body.claimRow (env : Env) (b : Body) (c : ChanId) (e : EntryNo) (r : Live) (v : Inventory) : Body :=
  let kept := r.wanted.filter (v.keeps env c r.key.bank)
  match kept.orElse fun _ => b.choose env c r.key.bank with
  | some x =>
    (b.modInv c (·.take x)).changeEntry e
      (some { r with st := .pending, repl := some x, requested := none, tag := v.tag, round := 0 })
  | none => b.changeEntry e (some { r with st := .unresolved, repl := none, requested := r.former, tag := v.tag, round := 0 })

/-- R44: keep a whole-bank entry and free the row entries of the bank that were visited before it. -/
def Body.claimBank (b : Body) (c : ChanId) (e : EntryNo) (r : Live) (v : Inventory) : Body :=
  let b1 := b.changeEntry e
    (some { r with st := .pending, repl := some .exclude, requested := none, tag := v.tag, round := 0 })
  ((b1.entriesWhere fun q => q.key.chan == c && q.key.bank == r.key.bank).filter (· < e)).foldl Body.freeEntry b1

/-- One visit of the claim (R43 to R45). The second part of the pair holds the banks kept whole so far. -/
def Body.claimVisit (env : Env) (c : ChanId) (st : Body × List Nat) (e : EntryNo) : Body × List Nat :=
  match st.1.dir[e].live, st.1.inv[c] with
  | some r, some v =>
    if r.belongs v = false ∨ r.key.bank ∈ st.2 then (st.1.forgetEntry e, st.2)
    else match r.key.row with
      | none => (st.1.claimBank c e r v, r.key.bank :: st.2)
      | some _ => (st.1.claimRow env c e r v, st.2)
  | _, _ => st

/-- R42: rebuild the inventory, then visit every non-FREE entry of the channel in ascending number. -/
def Body.claim (env : Env) (b : Body) (c : ChanId) (g : Geometry) : Body :=
  let b1 : Body := { b with inv := b.inv.set c (some (Inventory.build g)) }
  ((b1.entriesWhere fun r => r.key.chan == c).foldl (Body.claimVisit env c) (b1, [])).1

/-- A GEOMETRY accepted in its wait (R67): watch records, claim, and on to POOLCHECK; with an entry left UNRESOLVED the channel
goes FAILED (R46). -/
def Body.rediscover (env : Env) (b : Body) (c : ChanId) (g : Geometry) : Body :=
  let b1 := (b.dropWatch (rediscoveryFrees c b.inv[c] g)).claim env c g
  if b1.anyEntry fun r => r.key.chan == c && r.st == .unresolved then b1.failChannel env c .unrepairable
  else b1.enterPoolcheck env c

/-- A GEOMETRY that reaches the channel (R67); none when it is ignored. -/
def Body.takeGeometry (env : Env) (b : Body) (c : ChanId) (g : Geometry) : Option Body :=
  if b.chan[c].state = .test ∧ b.chan[c].phase = some .discover ∧ b.chan[c].geomWait.isSome then
    let b1 := b.modChan c fun ch => { ch with geomWait := none }
    some (if g.accepted then b1.rediscover env c g else b1.failChannel env c .geometry)
  else none

end Sys2Proof.Machine
end

