-- ==== Sys2Proof/Machine/Service.lean ====
section
/-! DEFINITION. In-service repair: fence queues, the repair trigger, the sweep, RESYNC, and what the loss or the return of a
link does to its channel. -/

namespace Sys2Proof.Machine

/-! ### Fence queues -/

/-- A BUFFER client's fence queue holds 32 entries (R107). -/
def Body.queueFull (b : Body) (c : ChanId) : Bool :=
  isBuffer c && decide (Config.fenceQueueMax ≤ (b.fenceOf c).queue.length)

/-- R109: the head of a fence queue is served when the channel is in SERVICE and no fence is outstanding. -/
def Body.serveHead (env : Env) (b : Body) (c : ChanId) : Body :=
  match b.chan[c].state, (b.fenceOf c).out, (b.fenceOf c).queue with
  | .service, none, e :: es =>
    match b.dir[e].live with
    | none => b.modFence c fun u => { u with queue := es }
    | some r =>
      let serial := b.link[c].fenceSerial
      let removal := r.st = .retireWait
      let f : Fence := ⟨serial, e, r.key.bank, r.key.row, if removal then .remove else .install, env.items.fenceTimeout⟩
      let b1 := (b.modFence c fun _ => ⟨es, some f⟩).modLink c fun k => { k with fenceSerial := k.fenceSerial + 1#8 }
      (b1.offer c (.fence serial r.key.bank r.key.row) .none).setEntryState e
        (if removal then .retireFencing else .fencing)
  | _, _, _ => b

/-- An entry joins the tail of its fence queue; outside the sweep the head is then checked (R109). -/
def Body.joinQueue (env : Env) (sweep : Bool) (b : Body) (c : ChanId) (e : EntryNo) : Body :=
  let b1 := b.modFence c fun u => { u with queue := u.queue ++ [e] }
  if sweep then b1 else b1.serveHead env c

/-- The way on of a PENDING entry in SERVICE: the fence queue of a BUFFER channel, INSTALL at once on a TABLE channel (R10,
R114). -/
def Body.onward (env : Env) (sweep : Bool) (b : Body) (c : ChanId) (e : EntryNo) : Body :=
  if isBuffer c then b.joinQueue env sweep c e else b.sendInstall e false

/-! ### The repair trigger -/

/-- A device tag for the entries a channel's paths create (R8, R29). -/
def Body.deviceTag (b : Body) (c : ChanId) : BitVec 16 := (b.inv[c].map (·.tag)).getD 0#16

/-- A new PENDING row entry with its chosen replacement (R8). -/
def Body.createRow (b : Body) (e : EntryNo) (k : Key) (x : Replacement) (o : Origin) : Body :=
  (b.modInv k.chan (·.take x)).createEntry e ⟨.pending, k, some x, none, o, b.deviceTag k.chan, 0⟩

/-- R56: a repair for a row with no entry. -/
def Body.newRepair (env : Env) (sweep : Bool) (b : Body) (k : Key) : Body :=
  if b.queueFull k.chan then b
  else match b.lowestFree with
    | none => b.raise .unrepairable (.key k)
    | some e =>
      match b.choose env k.chan k.bank with
      | none => b.raise .unrepairable (.key k)
      | some x => (b.createRow e k x .score).onward env sweep k.chan e

/-- R57: a retarget of an ACTIVE entry in SERVICE. -/
def Body.retargetRepair (env : Env) (sweep : Bool) (b : Body) (k : Key) (e : EntryNo) : Body :=
  if b.queueFull k.chan then b
  else match b.retarget env e none with
    | none => b.raise .unrepairable (.key k)
    | some b1 => b1.onward env sweep k.chan e

/-- R55: the repair trigger for a record of a row with this score. -/
def Body.trigger (env : Env) (sweep : Bool) (b : Body) (k : Key) (score : Nat) : Body :=
  if score < env.items.repairThreshold ∨ b.chan[k.chan].state ≠ .service then b
  else match b.findKey k with
    | none => b.newRepair env sweep k
    | some e =>
      match b.dir[e].live with
      | some r =>
        match r.st, r.repl with
        | .active, some (.target _) => b.retargetRepair env sweep k e
        | _, _ => b
      | none => b

/-- One visit of the sweep (R58): records of other channels, below the threshold, or in an excluded bank are passed over. -/
def Body.sweepVisit (env : Env) (c : ChanId) (b : Body) (i : WatchNo) : Body :=
  match b.watch[i] with
  | none => b
  | some w => if w.chan = c ∧ b.excluded c w.bank = false then b.trigger env true ⟨c, w.bank, some w.row⟩ w.score else b

/-- R58: the sweep of a channel's watch records. -/
def Body.sweep (env : Env) (b : Body) (c : ChanId) : Body := (List.finRange 256).foldl (Body.sweepVisit env c) b

/-- Entry to SERVICE (R83, R123): the sweep, then the head of the fence queue. -/
def Body.enterService (env : Env) (b : Body) (c : ChanId) : Body :=
  ((b.modChan c fun ch => { ch.quiet with state := .service }).sweep env c).serveHead env c

/-! ### Link loss -/

/-- The keys of a channel's REMOVING entries, in ascending entry number. -/
def Body.removingKeys (b : Body) (c : ChanId) : List Key :=
  (b.entriesWhere fun r => r.key.chan == c && r.st == .removing).filterMap fun e => b.dir[e].live.map (·.key)

/-- R119: entry to LOST. -/
def Body.enterLost (b : Body) (c : ChanId) : Body :=
  let owed := if isBuffer c then [] else b.removingKeys c
  let b1 := (b.modFence c fun u => { u with out := none }).settle c
  let b2 := owed.foldl (fun x k => x.raise .refillNeeded (.key k)) b1
  (b2.raise .linkLost (.channel c)).modChan c fun ch => { ch.quiet with state := .lost }

/-- R86: what the loss of its link does to a channel. -/
def Body.linkLost (env : Env) (b : Body) (c : ChanId) : Body :=
  match b.chan[c].state with
  | .test | .ready => b.failChannel env c .linkLost
  | .idle => b.modChan c fun ch => { ch with state := .down }
  | .service | .resync => b.enterLost c
  | .down | .lost | .failed => b

/-- A counter of R126 after one more event. -/
def bump (n : Nat) : Nat := min (n + 1) 65535

/-- R129: a link that leaves UP: through DOWN to TRAINING with its queues dropped, and an INIT on its lane. -/
def Link.drop (k : Link) (l : ChanId) (count : Counters → Counters) : Link :=
  { k with
    state := .training
    rx := []
    sendq := []
    inflight := []
    counters := count k.counters
    training := some 1
    lane := some ⟨0#4, .init l⟩
    overflow := false }

/-- R129: the link leaves UP and its channel is told. -/
def Body.linkDown (env : Env) (b : Body) (c : ChanId) (count : Counters → Counters) : Body :=
  (b.modLink c fun k => k.drop c count).linkLost env c

/-- The counters of a loss of signal (R129). -/
def Counters.signalLoss (k : Counters) : Counters := { k with lossesOfSignal := bump k.lossesOfSignal }

/-- The counters of an acknowledgement timeout (R143). -/
def Counters.ackTimeout (k : Counters) : Counters := { k with ackTimeouts := bump k.ackTimeouts }

/-- The counters of a send overflow, which is counted twice over (R129). -/
def Counters.sendOverflow (k : Counters) : Counters :=
  { k with ackTimeouts := bump k.ackTimeouts, sendOverflows := bump k.sendOverflows }

/-- R140: every link that met a send overflow in this change leaves UP. -/
def Body.closeOverflows (env : Env) : Nat → Body → Body
  | 0, b => b
  | n + 1, b =>
    match allChans.find? fun c => b.link[c].overflow with
    | none => b
    | some c => Body.closeOverflows env n (b.linkDown env c Counters.sendOverflow)

/-- The end of every change: overflowed links leave UP (R140), and the level conditions follow (R178, R179). -/
def Body.finish (env : Env) (b : Body) : Body := (b.closeOverflows env 12).refreshLevels env

/-! ### RESYNC -/

/-- One more frame awaited (R122). -/
def Body.await (b : Body) (c : ChanId) : Body := b.modChan c fun ch => { ch with awaited := ch.awaited.map (· + 1) }

/-- An ACK lowers the frames awaited (R122). -/
def Body.answered (b : Body) (c : ChanId) : Body := b.modChan c fun ch => { ch with awaited := ch.awaited.map (· - 1) }

/-- The walk's frame for one entry (R122); none for an entry that it passes over. -/
def Body.walkFrame (b : Body) (e : EntryNo) : Option Body :=
  match b.dir[e].live with
  | none => none
  | some r =>
    match r.st with
    | .pending => some (b.sendInstall e true)
    | .active | .refill => some (b.resendInstall e)
    | .unresolved | .fencing | .installing | .retireWait | .retireFencing | .removing => none

/-- R122: the walk over a list of entries, held back while the send queue holds 160 frames (R139). -/
def Body.walkEntries (c : ChanId) : List EntryNo → Body → Body
  | [], b => b.modChan c fun ch => { ch with walkPos := some 1024 }
  | e :: es, b =>
    match b.walkFrame e with
    | none => Body.walkEntries c es b
    | some b1 =>
      if Config.runMax ≤ b.link[c].sendq.length then b.modChan c fun ch => { ch with walkPos := some e.val }
      else Body.walkEntries c es (b1.await c)

/-- The walk goes on from its position; a walk that has ended, or none, does nothing. -/
def Body.continueWalk (b : Body) (c : ChanId) : Body :=
  match b.chan[c].walkPos with
  | none => b
  | some p =>
    if p < 1024 then Body.walkEntries c ((b.entriesWhere fun r => r.key.chan == c).filter (p ≤ ·.val)) b else b

/-- R121: entry to RESYNC. -/
def Body.enterResync (b : Body) (c : ChanId) : Body :=
  let b1 := b.modChan c fun ch => { ch.quiet with state := .resync, walkPos := some 0, awaited := some 1 }
  (b1.offer c .clearSet .clearSet).continueWalk c

/-- R123: RESYNC is complete when the walk has ended and no frame is awaited; RELEASE is then sent. -/
def Body.resyncCheck (b : Body) (c : ChanId) : Body :=
  if b.chan[c].state = .resync ∧ b.chan[c].walkPos = some 1024 ∧ b.chan[c].awaited = some 0 ∧
      b.chan[c].releaseOut = false then
    (b.offer c .release (.release .resync false)).modChan c fun ch => { ch with releaseOut := true }
  else b

/-- The run of an install phase or of RESYNC goes on (R139). -/
def Body.continueRuns (b : Body) (c : ChanId) : Body :=
  match b.chan[c].state with
  | .test => b.continueInstalls c
  | .resync => (b.continueWalk c).resyncCheck c
  | .down | .idle | .ready | .service | .lost | .failed => b

/-! ### The lane -/

/-- R138: the head of the send queue waits. -/
def Link.headWaits (k : Link) (m : Msg) : Bool :=
  (m.waits && decide (Config.inflightMax ≤ k.inflight.length)) || k.inflight.any fun f => f.seq == k.nextTx

/-- R138: the head of the send queue of an idle lane goes on it, unless it waits; it takes its number, and joins the in-flight
list if it waits for an ACK. -/
def Link.advance (k : Link) (ackTimeout : Nat) : Link :=
  match k.state, k.lane, k.sendq with
  | .up, none, q :: qs =>
    if k.headWaits q.msg then k
    else
      { k with
        sendq := qs
        lane := some ⟨k.nextTx, q.msg⟩
        nextTx := k.nextTx + 1#4
        inflight := if q.msg.waits then k.inflight ++ [⟨k.nextTx, q.msg, q.note, ackTimeout⟩] else k.inflight }
  | _, _, _ => k

/-- The head check of a link (R138), and the runs that go on when a frame has left its send queue (R139). -/
def Body.advanceLane (env : Env) (b : Body) (c : ChanId) : Body :=
  (b.modLink c (·.advance env.items.ackTimeout)).continueRuns c

/-- What a channel does when its link reaches UP (R64, R66, R121). -/
def Body.linkReachedUp (env : Env) (b : Body) (c : ChanId) : Body :=
  match b.chan[c].state with
  | .down => b.modChan c fun ch => { ch with state := .idle }
  | .test => if b.chan[c].linkWait.isSome then b.sendDiscover env c else b
  | .lost => b.enterResync c
  | .idle | .ready | .service | .resync | .failed => b

end Sys2Proof.Machine
end

