-- ==== Sys2Proof/Machine/Commands.lean ====
section
/-! DEFINITION. The shapes that the meanings share: an event that has its effect when it is due, and a frame handled from the
receive slots. -/

namespace Sys2Proof.Machine

/-- The outcome of a command. -/
abbrev Result := Host.Outcome State Fault Refusal

/-- The part works: it is not in reset and REFCLK runs (R192, R193). -/
def State.running (s : State) : Bool := !s.inReset && s.refclk

/-- The state after a change of the blocks (R140, R178, R179: the end of the change). -/
def State.withBody (s : State) (b : Body) : State := { s with body := b.finish s.env }

/-- An event of the part: its change when it can happen now, nothing otherwise (log 2). -/
def onEvent (s : State) (due : Bool) (f : Env → Body → Body) : Result :=
  if s.running && due then .next (s.withBody (f s.env s.body)) else .next s

/-- The blocks with the oldest frame of a link gone from its receive slot (R133). -/
def Body.popFrame (b : Body) (l : ChanId) : Body := b.modLink l fun k => { k with rx := k.rx.tail }

/-- R133, R145: the oldest frame that a link holds is handled, if it is one that `p` names. `act` answers the change its owner
makes, or none when the owner ignores it; the slot is empty either way. -/
def takeFrame (l : ChanId) (p : RxFrame → Bool) (act : Env → Body → RxFrame → Option Body) (s : State) : Result :=
  match s.body.link[l].rx with
  | [] => .next s
  | f :: _ =>
    if s.running && p f then
      match act s.env (s.body.popFrame l) f with
      | some b => .next (s.withBody b)
      | none => .next { s with body := s.body.popFrame l }
    else .next s

end Sys2Proof.Machine
end

