-- ==== Sys2Proof/Machine/Ports.lean ====
section
/-! DEFINITION. The management ports on their buses and the Request Executor. -/

namespace Sys2Proof.Machine

/-- A port's record. -/
def State.port (s : State) : PortId → Port
  | .a => s.portA
  | .b => s.portB

/-- Write a port's record. -/
def State.setPort (s : State) (p : PortId) (r : Port) : State :=
  match p with
  | .a => { s with portA := r }
  | .b => { s with portB := r }

/-! ### Bus transactions -/

/-- A write transaction ends (R155): the bytes received become the request; with none, nothing changes (R154). -/
def Port.endWrite (r : Port) : Port :=
  match r.writing with
  | none => r
  | some [] => { r with writing := none }
  | some bs => { r with writing := none, req := some bs }

/-- A read transaction ends (R156): an unfinished read of a reply restarts the hold timer. -/
def Port.endRead (r : Port) (replyHold : Nat) : Port :=
  match r.reading with
  | some .reply => { r with reading := none, hold := some replyHold }
  | some (.notReady _ _) | some .ones => { r with reading := none }
  | none => r

/-- The first data byte of a write loses the port's reply (R154). -/
def Port.loseReply (r : Port) : Port := { r with reply := none, readPos := 0, hold := none, lastLoss := .none }

/-- Data bytes of the write under way (R154): 40 are taken and acknowledged. -/
def Port.takeBytes (r : Port) (bs : List Byte) : Port :=
  match r.writing, bs with
  | some got, _ :: _ =>
    let r1 := if got = [] then r.loseReply else r
    { r1 with
      writing := some ((got ++ bs).take 40)
      bus := { r.bus with dataAcks := (List.range bs.length).map fun i => decide (got.length + i < 40) } }
  | _, _ => r

/-- R154: a START and the address phase of a write, with the data bytes that follow. -/
def Port.startWrite (r : Port) (replyHold : Nat) (addr : BitVec 7) (data : List Byte) : Port :=
  let r1 := r.endWrite.endRead replyHold
  if addr = r1.addr ∧ r1.req = none then
    { r1 with writing := some [], bus := ⟨some true, [], []⟩ }.takeBytes data
  else { r1 with bus := ⟨some false, [], []⟩ }

/-- R155: the last data bytes of a write and its end. -/
def Port.finishWrite (r : Port) (data : List Byte) : Port :=
  match r.writing with
  | some _ => ({ r with bus := BusOut.silent }.takeBytes data).endWrite
  | none => r

/-- The NOTREADY frame (R157). -/
def Port.notReadyFrame (r : Port) : List Byte :=
  replyFrame ((r.req.getD []).getD 0 0#8) 0#8 .notReady (yesNo r.req.isSome ++ be1 r.lastLoss.code)

/-- The part's answer to a read address (R156). -/
def Port.startRead (r : Port) (replyHold : Nat) (addr : BitVec 7) : Port :=
  let r1 := r.endWrite.endRead replyHold
  if addr = r1.addr then
    match r1.reply with
    | some _ => { r1 with reading := some .reply, hold := none, bus := ⟨some true, [], []⟩ }
    | none => { r1 with reading := some (.notReady r1.notReadyFrame 0), bus := ⟨some true, [], []⟩ }
  else { r1 with bus := ⟨some false, [], []⟩ }

/-- `n` bytes of a frame from a position, 0xFF beyond its end (R156). -/
def framePart (frame : List Byte) (pos n : Nat) : List Byte := ((frame.drop pos) ++ List.replicate n 0xFF#8).take n

/-- The master takes `n` bytes of the read under way (R156, R172). -/
def Port.sendBytes (r : Port) (n : Nat) : Port :=
  match r.reading with
  | none => r
  | some .ones => { r with bus := { r.bus with sent := List.replicate n 0xFF#8 } }
  | some (.notReady f pos) =>
    { r with reading := some (.notReady f (pos + n)), bus := { r.bus with sent := framePart f pos n } }
  | some .reply =>
    let f := r.reply.getD []
    let r1 := { r with bus := { r.bus with sent := framePart f r.readPos n } }
    if f.length ≤ r.readPos + n then { r1 with reply := none, readPos := 0, reading := some .ones }
    else { r1 with readPos := r.readPos + n }

/-! ### The executor -/

/-- R159: the port whose request an idle executor takes: port A's first. -/
def State.nextRequest (s : State) : Option PortId :=
  if s.portA.req.isSome then some .a else if s.portB.req.isSome then some .b else none

/-- R159: an idle executor takes a request that has entered a slot. -/
def State.dispatch (s : State) : State :=
  match s.executor with
  | none => { s with executor := s.nextRequest }
  | some _ => s

/-- REQUEST_WRITE_START (R154). While the part does not run, no address is acknowledged (R150, R193). -/
def execRequestWriteStart (p : PortId) (addr : BitVec 7) (data : List Byte) (s : State) : Result :=
  if s.running then .next (s.setPort p ((s.port p).startWrite s.items.replyHold addr data)).dispatch
  else .next (s.setPort p { s.port p with bus := ⟨some false, [], []⟩ })

/-- REQUEST_WRITE_END (R155). -/
def execRequestWriteEnd (p : PortId) (data : List Byte) (s : State) : Result :=
  if s.running then .next (s.setPort p ((s.port p).finishWrite data)).dispatch else .next s

/-- The address phase of an I2C_READ, or none when the read under way goes on. -/
def Port.readPhase (r : Port) (replyHold : Nat) (start : Option (BitVec 7)) : Port :=
  match start with
  | some addr => r.startRead replyHold addr
  | none => if r.reading.isSome then { r with bus := BusOut.silent } else r

/-- The end of an I2C_READ, if the transaction ends with it. -/
def Port.readEnd (r : Port) (replyHold : Nat) (ends : Bool) : Port := if ends then r.endRead replyHold else r

/-- I2C_READ (R156). -/
def execI2cRead (p : PortId) (start : Option (BitVec 7)) (n : Nat) (ends : Bool) (s : State) : Result :=
  if s.running then
    let hold := s.items.replyHold
    .next (s.setPort p ((((s.port p).readPhase hold start).sendBytes n).readEnd hold ends)).dispatch
  else if start.isSome then .next (s.setPort p { s.port p with bus := ⟨some false, [], []⟩ })
  else .next s

/-- R158: a reply lapses. -/
def Port.lapse (r : Port) : Port := { r with reply := none, readPos := 0, hold := none, lastLoss := .lapsed }

/-- REPLY_HOLD_EXPIRY (R158). -/
def execReplyHoldExpiry (p : PortId) (s : State) : Result :=
  if s.running && (s.port p).hold == some 0 then .next (s.setPort p (s.port p).lapse) else .next s

/-- R159: the reply enters the reply slot, the request slot is emptied, the hold timer starts, and the executor takes the next
request. -/
def State.placeReply (s : State) (p : PortId) (frame : List Byte) : State :=
  let s1 := s.setPort p
    { s.port p with req := none, reply := some frame, readPos := 0, hold := some s.items.replyHold }
  { s1 with executor := s1.nextRequest }

/-- R164: the port may use the request's class. -/
def State.allows (s : State) (p : PortId) (r : Request) : Bool :=
  match p, r.requestClass with
  | .a, _ => true
  | .b, .inspect => true
  | .b, .edit => s.grant.edit
  | .b, .control => s.grant.control
  | .b, .owner => false

/-- What executing a request leaves: the state, and the status and payload of the reply. -/
structure Answer where
  state : State
  status : Status
  payload : List Byte
  deriving DecidableEq, Repr

/-- A refusal (R160, R162): nothing changes, and the reply has no payload. -/
def State.refuse (s : State) (st : Status) : Answer := ⟨s, st, []⟩

/-- An accepted request (R162). -/
def State.accept (s : State) (payload : List Byte) : Answer := ⟨s, .ok, payload⟩

/-- The request that the executor is executing for a port, with its tag, if it has the form of R160. -/
def State.executing (s : State) (p : PortId) : Option (Byte × Request) :=
  if s.running && s.executor == some p then (s.port p).req.bind parseRequest else none

/-- R159, R160: the executor carries out the request of a port, if it is one that `act` names. -/
def serve (p : PortId) (act : Request → Option (State → Answer)) (s : State) : Result :=
  match s.executing p with
  | none => .next s
  | some (tag, rq) =>
    match act rq with
    | none => .next s
    | some f =>
      let a := if s.allows p rq then f s else s.refuse .denied
      .next (a.state.placeReply p (replyFrame tag rq.code a.status a.payload))

/-- UNPARSED_REQUEST (R160): BADREQ with the tag and code bytes as received, 0 for each missing one (R153). -/
def execUnparsedRequest (p : PortId) (s : State) : Result :=
  match (s.port p).req with
  | none => .next s
  | some bs =>
    if s.running && s.executor == some p && (parseRequest bs).isNone then
      .next (s.placeReply p (replyFrame (bs.getD 0 0#8) (bs.getD 1 0#8) .badReq []))
    else .next s

end Sys2Proof.Machine
end

