-- ==== Sys2Proof/Machine/Clock.lean ====
section
/-! DEFINITION. The reset pin and the reference clock (R192, R193). -/

namespace Sys2Proof.Machine

/-- POWER_ON_RESET (R192): every block at its power-on value for as long as RSTn is low. -/
def execPowerOnReset (s : State) : Result :=
  .next { State.held with refclk := s.refclk, pending := s.pending, picks := s.picks }

/-- The links as RSTn goes high: the training timers run and, with REFCLK, the first INIT is on each lane (R127, R192). -/
def Body.startLinks (b : Body) (refclk : Bool) : Body :=
  allChans.foldl (fun x l => x.modLink l fun k =>
    { k with training := some 1, lane := if refclk then some ⟨0#4, .init l⟩ else none }) b

/-- RESET_RELEASE (R192): the straps are sampled, the Time Base starts at 0 and the links train. -/
def execResetRelease (st : Straps) (s : State) : Result :=
  if s.inReset then
    .next
      { s with
        inReset := false
        now := 0#32
        portA := { s.portA with addr := addrA st.a }
        portB := { s.portB with addr := addrB st.b }
        body := s.body.startLinks s.refclk }
  else .next s

/-- No frame is on any lane (R193). -/
def Body.idleLanes (b : Body) : Body := { b with link := b.link.map fun k => { k with lane := none } }

/-- REFCLK_STOP (R193): the frames on the lanes are lost, and a read under way is an unfinished read. -/
def execRefclkStop (s : State) : Result :=
  if s.refclk then
    .next
      { s with
        refclk := false
        portA := s.portA.endRead s.items.replyHold
        portB := s.portB.endRead s.items.replyHold
        body := s.body.idleLanes }
  else .next s

/-- REFCLK_RESUME (R193): a write that was cut off ends, and its bytes become the request (R155). -/
def execRefclkResume (s : State) : Result :=
  if s.refclk then .next s
  else .next { s with refclk := true, portA := s.portA.endWrite, portB := s.portB.endWrite }.dispatch

end Sys2Proof.Machine
end

