-- ==== Sys2Proof/Machine/Replies.lean ====
section
/-! DEFINITION. What the requests share: operand checks (R2, R161), the fields of replies (R190, R191), and the configuration
items by number (R166). -/

namespace Sys2Proof.Machine

/-! ### Operand checks -/

/-- A channel operand (R161). -/
def chanOf (n : Nat) : Option ChanId := if h : n < 12 then some ⟨n, h⟩ else none

/-- An entry operand (R161). -/
def entryOf (n : Nat) : Option EntryNo := if h : n < 1024 then some ⟨n, h⟩ else none

/-- A plan slot operand (R161). -/
def slotOf (n : Nat) : Option SlotNo := if h : n < 16 then some ⟨n, h⟩ else none

/-- An optional channel filter: none when it is refused (R161). -/
def filterOf (m : MarkOp) : Option (Option ChanId) :=
  if m.mark = 0 then some none else if m.mark = 1 then (chanOf m.value).map some else none

/-- A filter passes a channel. -/
def filterPasses (f : Option ChanId) (c : ChanId) : Bool := f.all (· == c)

/-- A channel mask: the channels it names, none when it is empty or names a channel above 11 (R161). -/
def channelMask (n : Nat) : Option (List ChanId) :=
  if n = 0 ∨ 4096 ≤ n then none else some (allChans.filter fun c => n.testBit c.val)

/-- The ten conditions in ascending number (R174). -/
def allConds : List (Fin 10) := List.finRange 10

/-- A condition mask: none when it is empty or names no condition of the ten (R161, R182, R183). -/
def conditionMask (n : Nat) : Option (List (Fin 10)) :=
  if n = 0 ∨ 1024 ≤ n then none else some (allConds.filter fun c => n.testBit c.val)

/-- R2: the key that an operand names, if it is valid. -/
def Body.validKey (b : Body) (k : KeyOp) : Option Key :=
  (chanOf k.chan).bind fun c =>
    let row := if k.scope = 0 then some k.row else none
    if k.bank ≤ 31 ∧ k.scope ≤ 1 ∧ row.all (fun r => decide (r ≤ 131071)) ∧ (isBuffer c ∨ row.isSome) ∧
        b.inv[c].all (fun v => decide (k.bank < v.geo.banks) && row.all (v.geo.ordinary k.bank)) then
      some ⟨c, k.bank, row⟩
    else none

/-- Some channel is in TEST: the lock of R94. -/
def Body.anyTest (b : Body) : Bool := allChans.any fun c => b.chan[c].state == .test

/-! ### Fields of replies -/

/-- A mask with the bits of the numbers given. -/
def maskOf (ns : List Nat) : Nat := (ns.map fun n => 2 ^ n).sum

/-- A channel mask in two bytes (R190). -/
def channelMaskBytes (cs : List ChanId) : List Byte := be2 (maskOf (cs.map (·.val)))

/-- The pending mask (R181). -/
def Body.pendingMask (b : Body) : List Byte := be2 (maskOf ((allConds.filter fun n => b.att[n].pending).map (·.val)))

/-- The enabled mask (R181). -/
def Body.enabledMask (b : Body) : List Byte := be2 (maskOf ((allConds.filter fun n => b.att[n].enable).map (·.val)))

/-- A grant mask in one byte (R190). -/
def Grant.bytes (g : Grant) : List Byte := be1 (1 + (if g.edit then 2 else 0) + (if g.control then 4 else 0))

/-- Bytes zero-filled to a width. -/
def padded (n : Nat) (bs : List Byte) : List Byte := (bs ++ zeros n).take n

/-- A condition value in six bytes (R190). -/
def CondValue.bytes : CondValue → List Byte
  | .failed c cause => padded 6 (be1 c.val ++ be1 cause.code)
  | .key k => padded 6 k.bytes
  | .channel c => padded 6 (be1 c.val)
  | .testDone c sk rp => padded 6 (be1 c.val ++ be1 sk ++ be2 rp)
  | .budget c t => padded 6 (be1 c.val ++ be4 t)
  | .poolLow c n => padded 6 (be1 c.val ++ be1 n)

/-- The outstanding step in a reply: kind and token (R89). -/
def Running.bytes (r : Running) : List Byte := r.kind.bytes ++ [r.token]

/-- The contents of a plan slot in the coding of WRITE_PLAN (R190); unused operation places are 0. -/
def planBytes : Option PlanStep → List Byte
  | none => 1#8 :: zeros 14
  | some p =>
    [0#8] ++ be1 p.direction.code ++ be1 p.background.code ++ yesNo p.mandatory ++ be1 p.spread.code ++ be1 p.ops.length ++
      opPlaces 0#8 p.ops ++ be1 p.pause ++ be2 p.mask.toNat

/-- An entry's state and generation in a reply. -/
def Entry.stateBytes (e : Entry) : List Byte := be1 e.stateCode ++ [e.gen]

/-- The presence byte of an entry record (R191). -/
def Live.presence (r : Live) : Nat :=
  1 + (if r.key.row.isSome then 2 else 0) + (if r.repl.isSome then 4 else 0) +
    (match r.repl with
      | some (.target _) => 8
      | some .exclude | none => 0) +
    (if r.st = .unresolved ∧ r.requested.isSome then 16 else 0)

/-- The kind byte of a requested target (R191). -/
def Target.kindCode : Target → Nat
  | .device _ _ => 0
  | .pool _ => 1

/-- Bytes 13 to 15 of an entry record: the requested target, present in UNRESOLVED only (R191). -/
def Live.requestedBytes (r : Live) : List Byte :=
  match r.st, r.requested with
  | .unresolved, some t => be1 t.kindCode ++ t.bytes
  | _, _ => zeros 3

/-- The 20-byte entry record (R191). -/
def Entry.record (n : EntryNo) (e : Entry) : List Byte :=
  match e.live with
  | none => be2 n.val ++ [e.gen] ++ zeros 17
  | some r =>
    be2 n.val ++ [e.gen] ++ be1 r.st.code ++ be1 r.presence ++ be1 r.key.chan.val ++ be1 r.key.bank ++
      be3 (r.key.row.getD 0) ++ ((r.repl.map fun x => be1 x.kindCode ++ x.targetBytes).getD (zeros 3)) ++ r.requestedBytes ++
      be1 r.origin.code ++ be2 r.tag.toNat ++ be1 r.round

/-! ### Configuration items -/

/-- The values of the items in item-number order (R166). -/
def Items.values (i : Items) : List Nat :=
  [i.bootBudget, i.powerCeiling, i.repairThreshold, i.decayPeriod, i.bankFailLimit, i.verifyRounds, i.ackTimeout,
   i.stepTimeout, i.fenceTimeout, i.discoverWait, i.replyHold, i.poolLowMark, i.autoRelease, i.deviceSparesUse]

/-- The ranges of the items in item-number order (R166). -/
def itemRanges : List (Nat × Nat) :=
  [(100, 600000), (3, 28), (16, 1023), (1, 3600), (1, 64), (1, 3), (1, 1000), (1, 600), (10, 60000), (10, 10000), (10, 1000),
   (0, 128), (0, 1), (0, 1)]

/-- Write an item by its number (R166). -/
def Items.put (i : Items) (n v : Nat) : Items :=
  match n with
  | 0 => { i with bootBudget := v }
  | 1 => { i with powerCeiling := v }
  | 2 => { i with repairThreshold := v }
  | 3 => { i with decayPeriod := v }
  | 4 => { i with bankFailLimit := v }
  | 5 => { i with verifyRounds := v }
  | 6 => { i with ackTimeout := v }
  | 7 => { i with stepTimeout := v }
  | 8 => { i with fenceTimeout := v }
  | 9 => { i with discoverWait := v }
  | 10 => { i with replyHold := v }
  | 11 => { i with poolLowMark := v }
  | 12 => { i with autoRelease := v }
  | 13 => { i with deviceSparesUse := v }
  | _ => i

/-- A value clamped to a range (R167). -/
def clamp (r : Nat × Nat) (v : Nat) : Nat := max r.1 (min v r.2)

end Sys2Proof.Machine
end

