-- ==== Sys2Proof/Machine/Control.lean ====
section
/-! DEFINITION. The requests of classes CONTROL and OWNER. -/

namespace Sys2Proof.Machine

/-- A channel state that refuses START_TEST (R65). -/
def ChanState.startBusy : ChanState → Bool
  | .test | .service | .resync | .lost => true
  | .down | .idle | .ready | .failed => false

/-- START_TEST on the channels of a mask (R65, R66). -/
def State.startAnswer (s : State) (cs : List ChanId) : Answer :=
  if cs.any fun c => s.body.chan[c].state.startBusy then s.refuse .busy
  else (s.withBody (cs.foldl (Body.enterDiscover s.env) s.body)).accept (channelMaskBytes cs)

/-- START_TEST (R65). -/
def execStartTest (p : PortId) (s : State) : Result :=
  serve p (fun r => match r with
    | .startTest m => some fun s =>
      match channelMask m with
      | none => s.refuse .badArg
      | some cs => s.startAnswer cs
    | _ => none) s

/-- The channels of a list that are in TEST. -/
def Body.inTest (b : Body) (cs : List ChanId) : List ChanId := cs.filter fun c => b.chan[c].state == .test

/-- STOP_TEST (R84). -/
def execStopTest (p : PortId) (s : State) : Result :=
  serve p (fun r => match r with
    | .stopTest m => some fun s =>
      match channelMask m with
      | none => s.refuse .badArg
      | some cs => (s.withBody (s.body.stopChannels s.env cs)).accept (channelMaskBytes (s.body.inTest cs))
    | _ => none) s

/-- The RELEASE of a READY channel is sent (R82). -/
def Body.releaseReady (b : Body) (c : ChanId) : Body :=
  (b.offer c .release (.release .ready false)).modChan c fun ch => { ch with releaseOut := true }

/-- RELEASE (R82). -/
def execRelease (p : PortId) (s : State) : Result :=
  serve p (fun r => match r with
    | .release n => some fun s =>
      match chanOf n with
      | none => s.refuse .badArg
      | some c =>
        if s.body.chan[c].state = .ready ∧ s.body.chan[c].releaseOut = false then
          (s.withBody (s.body.releaseReady c)).accept []
        else s.refuse .busy
    | _ => none) s

/-! ### WRITE_PLAN -/

/-- A direction by its code (R190). -/
def directionOf : Nat → Option Direction
  | 0 => some .up
  | 1 => some .down
  | _ => none

/-- A background by its code (R190). -/
def backgroundOf : Nat → Option Background
  | 0 => some .solid
  | 1 => some .checker
  | 2 => some .rowstripe
  | 3 => some .colstripe
  | _ => none

/-- An operation by its code (R190). -/
def opOf : Nat → Option MarchOp
  | 0 => some .w0
  | 1 => some .w1
  | 2 => some .r0
  | 3 => some .r1
  | _ => none

/-- A spread by its code (R190). -/
def spreadOf : Nat → Option Spread
  | 0 => some .parallel
  | 1 => some .serial
  | _ => none

/-- Yes or no by its code (R190). -/
def boolOf : Nat → Option Bool
  | 0 => some false
  | 1 => some true
  | _ => none

/-- A line by its code (R190). -/
def lineOf : Nat → Option Line
  | 0 => some .hi
  | 1 => some .lo
  | _ => none

/-- The pause exponent taken (R93). -/
def clampPause (k : Nat) : Nat := if k = 0 then 0 else max 9 (min k 16)

/-- The operations of a step operand; none when one of them or their count is refused (R95). -/
def StepOp.opList (o : StepOp) : Option (List MarchOp) :=
  if 1 ≤ o.count ∧ o.count ≤ 6 then (o.places.take o.count).mapM opOf else none

/-- The step that a WRITE_PLAN names, its pause clamped; none when a field is refused (R95, R93). -/
def StepOp.step (o : StepOp) : Option PlanStep := do
  let d ← directionOf o.direction
  let b ← backgroundOf o.background
  let m ← boolOf o.mandatory
  let sp ← spreadOf o.spread
  let ops ← o.opList
  if o.mask < 4096 then some ⟨d, b, ops, clampPause o.pause, m, sp, BitVec.ofNat 12 o.mask⟩ else none

/-- The slot contents that a WRITE_PLAN names: EMPTY, or a step; none when they are refused (R95, R190). -/
def planOperand (mark : Nat) (o : StepOp) : Option (Option PlanStep) :=
  if mark = 1 then some none else if mark = 0 then o.step.map some else none

/-- WRITE_PLAN (R95). -/
def execWritePlan (p : PortId) (s : State) : Result :=
  serve p (fun r => match r with
    | .writePlan n mark o => some fun s =>
      match slotOf n, planOperand mark o with
      | some i, some x =>
        if s.body.anyTest then s.refuse .busy
        else { s with plan := s.plan.set i x }.accept (be1 i.val ++ planBytes x)
      | _, _ => s.refuse .badArg
    | _ => none) s

/-! ### SET_CONFIG -/

/-- The state after an item is written (R167, R168): a write of DECAY_PERIOD restarts the decay timer, and the level conditions
are compared again. -/
def State.writeItem (s : State) (n v : Nat) : State :=
  let s1 := { s with items := s.items.put n v, decayTimer := if n = 3 then v * 1000 else s.decayTimer }
  s1.withBody s1.body

/-- SET_CONFIG (R167). -/
def execSetConfig (p : PortId) (s : State) : Result :=
  serve p (fun r => match r with
    | .setConfig n v => some fun s =>
      match itemRanges[n]? with
      | none => s.refuse .badArg
      | some range =>
        if n = 1 ∧ s.body.anyTest then s.refuse .busy
        else
          let taken := clamp range v
          (s.writeItem n taken).accept (be1 n ++ be4 taken ++ yesNo (taken != v))
    | _ => none) s

/-! ### Attention -/

/-- R182: the edge conditions of a list are cleared. -/
def Body.clearConds (b : Body) (ns : List (Fin 10)) : Body :=
  ns.foldl (fun (x : Body) (n : Fin 10) => if isLevel n then x else { x with att := x.att.set n x.att[n].clear }) b

/-- CLEAR_ATTENTION (R182). -/
def execClearAttention (p : PortId) (s : State) : Result :=
  serve p (fun r => match r with
    | .clearAttention m => some fun s =>
      match conditionMask m with
      | none => s.refuse .badArg
      | some ns =>
        let s1 := s.withBody (s.body.clearConds ns)
        s1.accept s1.body.pendingMask
    | _ => none) s

/-- R183: enable and line select of the conditions of a list. -/
def Body.routeConds (b : Body) (ns : List (Fin 10)) (en : Bool) (l : Line) : Body :=
  ns.foldl (fun (x : Body) (n : Fin 10) => { x with att := x.att.set n { x.att[n] with enable := en, line := l } }) b

/-- Enable and line select of the ten conditions (R183), a pair of bytes for each condition in ascending number; that the two
alternate is the model's choice (log 15). -/
def Body.routeBytes (b : Body) : List Byte := allConds.flatMap fun n => yesNo b.att[n].enable ++ be1 b.att[n].line.code

/-- SET_ATTENTION (R183). -/
def execSetAttention (p : PortId) (s : State) : Result :=
  serve p (fun r => match r with
    | .setAttention m en l => some fun s =>
      match conditionMask m, boolOf en, lineOf l with
      | some ns, some e, some ln =>
        let s1 := s.withBody (s.body.routeConds ns e ln)
        s1.accept s1.body.routeBytes
      | _, _, _ => s.refuse .badArg
    | _ => none) s

/-! ### OWNER -/

/-- GRANT (R165). -/
def execGrant (p : PortId) (s : State) : Result :=
  serve p (fun r => match r with
    | .grant ed ct => some fun s =>
      match boolOf ed, boolOf ct with
      | some e, some c => { s with grant := ⟨e, c⟩ }.accept (Grant.bytes ⟨e, c⟩)
      | _, _ => s.refuse .badArg
    | _ => none) s

/-- R171, steps 1 to 5: running channels stopped; configuration, plan, grant mask and attention at their power-on values. -/
def State.controlState (s : State) : State :=
  let stopped := s.body.stopChannels s.env allChans
  let s1 :=
    { s with
      items := Items.default
      decayTimer := 60000
      plan := Plan.default
      grant := Grant.default
      body := { stopped.closeOverflows s.env 12 with att := Attention.initial } }
  { s1 with body := s1.body.refreshLevels s1.env }

/-- R172: port B after a control reset. A read of the discarded reply goes on with 0xFF. -/
def Port.controlReset (r : Port) : Port :=
  { r with
    req := none
    reply := none
    readPos := 0
    hold := none
    lastLoss := if r.req.isSome || r.reply.isSome then .reset else r.lastLoss
    reading :=
      match r.reading with
      | some .reply => some .ones
      | x => x }

/-- CONTROL_RESET (R171, R172). -/
def execControlReset (p : PortId) (s : State) : Result :=
  serve p (fun r => match r with
    | .controlReset => some fun s =>
      let s1 := s.controlState
      { s1 with portA := { s1.portA with lastLoss := .none }, portB := s1.portB.controlReset }.accept
        (channelMaskBytes (s.body.inTest allChans))
    | _ => none) s

end Sys2Proof.Machine
end

