-- ==== Sys2Proof/Machine/Edit.lean ====
section
/-! DEFINITION. The four requests of class EDIT: SEED, ADD_REPAIR, RETIRE and REFILLED. -/

namespace Sys2Proof.Machine

/-! ### SEED -/

/-- The requested target of a SEED: none when its bytes are refused (R7, R161, R190). -/
def targetOf (mark t0 t1 : Nat) : Option (Option Target) :=
  if mark = 0 then some none
  else if mark = 1 ∧ t0 ≤ 31 ∧ t1 ≤ 3 then some (some (.device t0 t1))
  else if mark = 2 ∧ t0 ≤ 127 then some (some (.pool t0))
  else none

/-- R7, check 1: a requested target needs a row key, and exists in the inventory when there is one. -/
def targetFits (v : Option Inventory) (k : Key) (t : Target) : Bool :=
  k.row.isSome && v.all fun w =>
    match t with
    | .device g i => g == w.geo.group k.bank && decide (i < w.geo.sparesPerGroup)
    | .pool s => decide (s < w.geo.poolRows)

/-- R7, check 1: the tag is 0 or the channel's device tag when it has an inventory. -/
def tagFits (v : Option Inventory) (tag : Nat) : Bool := tag == 0 || v.all fun w => w.tag.toNat == tag

/-- R7, check 2: the channel states in which a SEED is taken. -/
def ChanState.seedable : ChanState → Bool
  | .down | .idle | .ready | .failed => true
  | .test | .service | .resync | .lost => false

/-- R7, check 4: the key is present, or a whole-bank key meets an entry of its bank (R3). -/
def Body.keyTaken (b : Body) (k : Key) : Bool :=
  b.anyEntry fun r => r.key == k || (k.row.isNone && r.key.chan == k.chan && r.key.bank == k.bank)

/-- A target of the inventory is FREE (R7, check 5). -/
def Inventory.isFree (v : Inventory) : Target → Bool
  | .device g i => v.spare g i == some .free
  | .pool s => v.slots[s]? == some .free

/-- What a SEED with an inventory gives its entry: the requested target, an exclusion for a whole bank, or nothing (R7). -/
def seedRepl (v : Option Inventory) (k : Key) (t : Option Target) : Option Replacement :=
  if v.isNone then none
  else match t, k.row with
    | some x, _ => some (.target x)
    | none, none => some .exclude
    | none, some _ => none

/-- The entry a SEED makes (R7). -/
def Body.seedEntry (b : Body) (e : EntryNo) (k : Key) (tag : Nat) (t : Option Target) : Body :=
  let v := b.inv[k.chan]
  let newTag := (v.map (·.tag)).getD (BitVec.ofNat 16 tag)
  match seedRepl v k t with
  | some (.target x) =>
    (b.modInv k.chan (·.take (.target x))).createEntry e ⟨.pending, k, some (.target x), none, .seed, newTag, 0⟩
  | some .exclude => b.createEntry e ⟨.pending, k, some .exclude, none, .seed, newTag, 0⟩
  | none => b.createEntry e ⟨.unresolved, k, none, t, .seed, newTag, 0⟩

/-- R10: in READY a PENDING entry of kind POOL or EXCLUDE is sent at once. -/
def Body.sendInReady (b : Body) (c : ChanId) (e : EntryNo) : Body :=
  match b.chan[c].state, b.dir[e].live.bind (·.repl) with
  | .ready, some (.target (.pool _)) | .ready, some .exclude => b.sendInstall e false
  | _, _ => b

/-- SEED once its operands are valid: checks 2 to 6 and the effect (R7). A second SEED of the same whole-bank key is refused EXCLUDED
by check 3, where R156 and R173 say EXISTS of a repeated SEED: following R7's order is the model's reading (log 30). -/
def State.seedAnswer (s : State) (k : Key) (tag : Nat) (t : Option Target) : Answer :=
  let b := s.body
  if b.chan[k.chan].state.seedable = false then s.refuse .busy
  else if b.excluded k.chan k.bank then s.refuse .excluded
  else if b.keyTaken k then s.refuse .exists
  else if b.inv[k.chan].any (fun v => t.any fun x => !v.isFree x) then s.refuse .taken
  else match b.lowestFree with
    | none => s.refuse .full
    | some e =>
      let s1 := s.withBody ((b.seedEntry e k tag t).sendInReady k.chan e)
      s1.accept (be2 e.val ++ s1.body.dir[e].stateBytes)

/-- SEED (R7). -/
def execSeed (p : PortId) (s : State) : Result :=
  serve p (fun r => match r with
    | .seed ko tag mark t0 t1 => some fun s =>
      match s.body.validKey ko, targetOf mark t0 t1 with
      | some k, some t =>
        if t.all (targetFits s.body.inv[k.chan] k) && tagFits s.body.inv[k.chan] tag then s.seedAnswer k tag t
        else s.refuse .badArg
      | _, _ => s.refuse .badArg
    | _ => none) s

/-! ### ADD_REPAIR -/

/-- The way on of an entry that ADD_REPAIR made, by its channel's state (R115). -/
def Body.addOnward (env : Env) (b : Body) (c : ChanId) (e : EntryNo) : Body :=
  match b.chan[c].state with
  | .service => b.onward env false c e
  | .ready => b.sendInstall e false
  | .down | .idle | .test | .resync | .lost | .failed => b

/-- The channel states in which ADD_REPAIR is taken (R115). -/
def ChanState.addable : ChanState → Bool
  | .service | .idle | .ready => true
  | .down | .test | .resync | .lost | .failed => false

/-- An entry with its kind and target in a reply (R115). -/
def Entry.repairBytes (e : Entry) : List Byte :=
  match e.live.bind (·.repl) with
  | some x =>
    e.stateBytes ++ be1 x.kindCode ++ optField 2 Target.bytes (match x with
      | .target t => some t
      | .exclude => none)
  | none => e.stateBytes ++ zeros 4

/-- ADD_REPAIR once its key is valid: checks 2 to 7 and the effect (R115). -/
def State.addAnswer (s : State) (k : Key) : Answer :=
  let b := s.body
  if b.chan[k.chan].state.addable = false ∨ b.inv[k.chan].isNone then s.refuse .busy
  else if b.excluded k.chan k.bank then s.refuse .excluded
  else if (b.findKey k).isSome then s.refuse .exists
  else if b.chan[k.chan].state = .service ∧ b.queueFull k.chan then s.refuse .full
  else match b.lowestFree with
    | none => s.refuse .full
    | some e =>
      match b.choose s.env k.chan k.bank with
      | none => s.refuse .full
      | some x =>
        let s1 := s.withBody ((b.createRow e k x .manual).addOnward s.env k.chan e)
        s1.accept (be2 e.val ++ s1.body.dir[e].repairBytes)

/-- ADD_REPAIR (R115). -/
def execAddRepair (p : PortId) (s : State) : Result :=
  serve p (fun r => match r with
    | .addRepair n bank row => some fun s =>
      match s.body.validKey ⟨n, bank, 0, row⟩ with
      | none => s.refuse .badArg
      | some k => s.addAnswer k
    | _ => none) s

/-! ### RETIRE -/

/-- The entry is ACTIVE or REFILL. -/
def Live.inForce (r : Live) : Bool := r.st == .active || r.st == .refill

/-- The entry is in the middle of an exchange (R19, check 4). -/
def Live.inExchange (r : Live) : Bool :=
  r.st == .fencing || r.st == .installing || r.st == .retireWait || r.st == .retireFencing || r.st == .removing

/-- The entry's kind is DEVICE. -/
def Live.isDevice (r : Live) : Bool :=
  match r.repl with
  | some (.target (.device _ _)) => true
  | some (.target (.pool _)) | some .exclude | none => false

/-- R19, checks 4 to 7. For a DEVICE entry in RESYNC check 5 gives FIXED, where the tables of R124 and R125 say BUSY for every
ACTIVE or REFILL entry; the model follows the order of R19 (log 28). -/
def Body.retireRefusal (b : Body) (r : Live) : Option Status :=
  let st := b.chan[r.key.chan].state
  if r.inExchange then some .inflight
  else if r.inForce && r.isDevice && (st == .ready || st == .service || st == .test || st == .resync) then some .fixed
  else if r.inForce && (st == .test || st == .resync) then some .busy
  else if r.inForce && st == .service && b.queueFull r.key.chan then some .full
  else none

/-- The effect of a RETIRE that passes its checks (R19); an install phase may end by it (R72). -/
def Body.retire (env : Env) (b : Body) (e : EntryNo) (r : Live) : Body :=
  let c := r.key.chan
  if r.inForce then
    match b.chan[c].state with
    | .service => if isBuffer c then (b.setEntryState e .retireWait).joinQueue env false c e else b.sendRemove e
    | .ready => b.sendRemove e
    | .idle | .down | .lost | .failed => b.freeEntry e
    | .test | .resync => b
  else (b.freeEntry e).checkInstallPhase env c

/-- RETIRE on an entry (R19). -/
def State.retireAnswer (s : State) (e : EntryNo) (gen : Nat) : Answer :=
  if s.body.dir[e].gen.toNat ≠ gen then s.refuse .stale
  else match s.body.dir[e].live with
    | none => s.refuse .notFound
    | some r =>
      match s.body.retireRefusal r with
      | some st => s.refuse st
      | none =>
        let s1 := s.withBody (s.body.retire s.env e r)
        s1.accept s1.body.dir[e].stateBytes

/-- RETIRE (R19). -/
def execRetire (p : PortId) (s : State) : Result :=
  serve p (fun r => match r with
    | .retire n gen => some fun s =>
      match entryOf n with
      | none => s.refuse .badArg
      | some e => s.retireAnswer e gen
    | _ => none) s

/-! ### REFILLED -/

/-- The effect of a REFILLED that passes its checks (R20). -/
def Body.refilled (b : Body) (e : EntryNo) (r : Live) : Body :=
  let b1 := b.activate e
  if b.chan[r.key.chan].state = .service then b1.raise .repairDone (.key r.key) else b1

/-- REFILLED on an entry (R20). -/
def State.refilledAnswer (s : State) (e : EntryNo) (gen : Nat) : Answer :=
  if s.body.dir[e].gen.toNat ≠ gen then s.refuse .stale
  else match s.body.dir[e].live with
    | none => s.refuse .notFound
    | some r =>
      if r.st ≠ .refill then s.refuse .badArg
      else
        let s1 := s.withBody (s.body.refilled e r)
        s1.accept s1.body.dir[e].stateBytes

/-- REFILLED (R20). -/
def execRefilled (p : PortId) (s : State) : Result :=
  serve p (fun r => match r with
    | .refilled n gen => some fun s =>
      match entryOf n with
      | none => s.refuse .badArg
      | some e => s.refilledAnswer e gen
    | _ => none) s

end Sys2Proof.Machine
end

