-- ==== Sys2Proof/Machine/Inspect.lean ====
section
/-! DEFINITION. The twelve requests of class INSPECT. -/

namespace Sys2Proof.Machine

/-- GET_STATUS's reply (R170). -/
def State.statusBytes (s : State) : List Byte :=
  be2 4160 ++ be1 1 ++ be4 s.now.toNat ++ (allChans.flatMap fun c => be1 s.body.chan[c].state.code) ++
    be2 (s.body.dir.toList.countP fun e => e.live.isNone) ++ be2 s.body.watchCount ++ be1 s.body.unitsInUse ++
    be1 s.body.waitingCount ++ s.grant.bytes ++ yesNo (s.line .hi) ++ yesNo (s.line .lo)

/-- GET_STATUS (R170). -/
def execGetStatus (p : PortId) (s : State) : Result :=
  serve p (fun r => match r with
    | .getStatus => some fun s => s.accept s.statusBytes
    | _ => none) s

/-- GET_CHANNEL's reply (R89). -/
def Body.channelBytes (env : Env) (b : Body) (c : ChanId) : List Byte :=
  let ch := b.chan[c]
  be1 (if isBuffer c then 0 else 1) ++ be1 ch.state.code ++ optField 1 (fun p => be1 p.code) ch.phase ++
    optField 1 (fun p => be1 p.code) ch.cause ++ optField 1 (fun n : SlotNo => be1 n.val) ch.planPos ++
    optField 3 Running.bytes ch.step ++ be1 ch.admission.code ++ be1 ch.verifyRound ++
    optField 4 be4 (if ch.state = .test then some (b.elapsed env c) else none) ++ be2 ch.repaired.length ++
    be1 ch.skipped ++ be2 ch.repairs ++ yesNo ch.releaseOut ++ yesNo b.inv[c].isSome

/-- GET_CHANNEL (R89). -/
def execGetChannel (p : PortId) (s : State) : Result :=
  serve p (fun r => match r with
    | .getChannel n => some fun s =>
      match chanOf n with
      | none => s.refuse .badArg
      | some c => s.accept (s.body.channelBytes s.env c)
    | _ => none) s

/-- GET_LINK's reply (R147). The GAP flag is sent as a yes or no, 1 when set: that R190's row of yes and no covers it, and not the row
of named values, is the model's reading (log 31). -/
def Link.bytes (k : Link) : List Byte :=
  be1 k.state.code ++ be1 k.nextTx.toNat ++ be1 k.expected.toNat ++ be1 k.sendq.length ++ be1 k.inflight.length ++
    [k.fenceSerial] ++ yesNo k.gap ++ optField 1 (fun v => [v]) k.lastHello ++ be2 k.counters.crcDiscards ++
    be2 k.counters.overruns ++ be2 k.counters.gaps ++ be2 k.counters.malformed ++ be2 k.counters.ackTimeouts ++
    be2 k.counters.sendOverflows ++ be2 k.counters.lossesOfSignal ++ be2 k.counters.timesUp

/-- GET_LINK (R147): the GAP flag is clear after the reply is made. -/
def execGetLink (p : PortId) (s : State) : Result :=
  serve p (fun r => match r with
    | .getLink n => some fun s =>
      match chanOf n with
      | none => s.refuse .badArg
      | some l => { s with body := s.body.modLink l fun k => { k with gap := false } }.accept s.body.link[l].bytes
    | _ => none) s

/-- GET_INVENTORY's reply with no selector (R34). -/
def Inventory.summaryBytes (v : Inventory) : List Byte :=
  be1 v.geo.banks ++ be4 v.geo.rowsPerBank ++ be1 v.geo.banksPerGroup ++ be1 v.geo.sparesPerGroup ++ be1 v.geo.poolBank ++
    be1 v.geo.poolRows ++ be2 v.tag.toNat ++ be1 (v.spareCount .free) ++ be1 (v.spareCount .used) ++
    be1 (v.spareCount .spent) ++ be1 (v.slotCount .free) ++ be1 (v.slotCount .used) ++ be1 (v.slotCount .bad) ++
    optField 1 be1 v.freeSlot ++ be1 v.exclusions

/-- GET_INVENTORY's reply for a bank (R34). -/
def Body.bankBytes (b : Body) (c : ChanId) (v : Inventory) (bank : Nat) : List Byte :=
  be1 (v.geo.group bank) ++ ((v.spares.getD (v.geo.group bank) []).flatMap fun st => be1 st.code) ++
    be2 (v.tallies.getD bank 0) ++ yesNo (b.excluded c bank) ++ yesNo (bank == v.geo.poolBank)

/-- The entry that holds a pool slot, when the slot is USED. -/
def Body.usedSlotHolder (b : Body) (c : ChanId) (st : SlotState) (slot : Nat) : Option EntryNo :=
  if st = .used then b.findEntry fun r => r.key.chan == c && r.repl == some (.target (.pool slot)) else none

/-- GET_INVENTORY's reply for a pool slot (R34). -/
def Body.slotBytes (b : Body) (c : ChanId) (v : Inventory) (slot : Nat) (st : SlotState) : List Byte :=
  be1 st.code ++ be3 (v.geo.slotRow slot) ++ optField 2 (fun e : EntryNo => be2 e.val) (b.usedSlotHolder c st slot)

/-- A selector inside its ranges (R34, R161): absent, a bank 0 to 31, or a pool slot 0 to 127. -/
def selectorOk (m : MarkOp) : Bool := m.mark == 0 || (m.mark == 1 && m.value ≤ 31) || (m.mark == 2 && m.value ≤ 127)

/-- GET_INVENTORY on an inventory (R34). -/
def State.inventoryAnswer (s : State) (c : ChanId) (v : Inventory) (m : MarkOp) : Answer :=
  if m.mark = 0 then s.accept v.summaryBytes
  else if m.mark = 1 then
    if m.value < v.geo.banks then s.accept (s.body.bankBytes c v m.value) else s.refuse .badArg
  else
    match v.slots[m.value]? with
    | some st => s.accept (s.body.slotBytes c v m.value st)
    | none => s.refuse .badArg

/-- GET_INVENTORY (R34). A selector outside its range is refused BADARG before a channel with no inventory gives NOTFOUND: no rule
orders R161 against R34 here, and this order is the model's choice (log 27). -/
def execGetInventory (p : PortId) (s : State) : Result :=
  serve p (fun r => match r with
    | .getInventory n m => some fun s =>
      match chanOf n with
      | none => s.refuse .badArg
      | some c =>
        if selectorOk m = false then s.refuse .badArg
        else match s.body.inv[c] with
          | none => s.refuse .notFound
          | some v => s.inventoryAnswer c v m
    | _ => none) s

/-- READ_ENTRY (R24, R191). -/
def execReadEntry (p : PortId) (s : State) : Result :=
  serve p (fun r => match r with
    | .readEntry n => some fun s =>
      match entryOf n with
      | none => s.refuse .badArg
      | some e => s.accept (s.body.dir[e].record e)
    | _ => none) s

/-- FIND (R23). -/
def execFind (p : PortId) (s : State) : Result :=
  serve p (fun r => match r with
    | .find k => some fun s =>
      match s.body.validKey k with
      | none => s.refuse .badArg
      | some key =>
        match s.body.findKey key with
        | none => s.refuse .notFound
        | some e => s.accept (be2 e.val ++ s.body.dir[e].stateBytes)
    | _ => none) s

/-- The lowest non-FREE entry at or above a number that passes a filter (R24). -/
def Body.nextEntry (b : Body) (start : EntryNo) (f : Option ChanId) : Option (EntryNo × Live) :=
  (b.numbered.find? fun x => decide (start ≤ x.1) && x.2.live.any fun r => filterPasses f r.key.chan).bind fun x =>
    x.2.live.map fun r => (x.1, r)

/-- NEXT_ENTRY (R24). -/
def execNextEntry (p : PortId) (s : State) : Result :=
  serve p (fun r => match r with
    | .nextEntry n m => some fun s =>
      match entryOf n, filterOf m with
      | some start, some f =>
        match s.body.nextEntry start f with
        | none => s.refuse .notFound
        | some (e, l) => s.accept (be2 e.val ++ l.key.bytes ++ s.body.dir[e].stateBytes)
      | _, _ => s.refuse .badArg
    | _ => none) s

/-- Score, correctable count and uncorrectable-seen flag in a reply (R60, R61). -/
def Watch.bytes (w : Watch) : List Byte := be2 w.score ++ be1 w.correctable ++ yesNo w.ueSeen

/-- The lowest record in use at or above an index that passes a filter (R60). -/
def Body.nextWatch (b : Body) (start : Nat) (f : Option ChanId) : Option (WatchNo × Watch) :=
  (b.numberedWatch.find? fun x => decide (start ≤ x.1.val) && x.2.any fun w => filterPasses f w.chan).bind fun x =>
    x.2.map fun w => (x.1, w)

/-- READ_WATCH (R60). -/
def execReadWatch (p : PortId) (s : State) : Result :=
  serve p (fun r => match r with
    | .readWatch n m => some fun s =>
      match filterOf m with
      | none => s.refuse .badArg
      | some f =>
        if 255 < n then s.refuse .badArg
        else match s.body.nextWatch n f with
          | none => ⟨s, .notFound, be2 s.body.watchCount⟩
          | some (i, w) =>
            s.accept (be1 i.val ++ (Key.mk w.chan w.bank (some w.row)).bytes ++ w.bytes ++ be2 s.body.watchCount)
    | _ => none) s

/-- FIND_WATCH (R61). -/
def execFindWatch (p : PortId) (s : State) : Result :=
  serve p (fun r => match r with
    | .findWatch n bank row => some fun s =>
      match chanOf n with
      | none => s.refuse .badArg
      | some c =>
        if 31 < bank ∨ 131071 < row then s.refuse .badArg
        else match s.body.numberedWatch.find? fun x => x.2.any (·.isFor c bank row) with
          | some (i, some w) => s.accept (be1 i.val ++ w.bytes)
          | _ => s.refuse .notFound
    | _ => none) s

/-- The cause: the lowest-numbered condition that is pending and enabled (R181). -/
def Body.causeNo (b : Body) : Option (Fin 10) := allConds.find? fun n => b.att[n].pending && b.att[n].enable

/-- The channels that meet a level condition (R178, R179). -/
def Body.levelChans (env : Env) (b : Body) (n : Fin 10) : List ChanId :=
  if n = Condition.budgetExpired.num then allChans.filter (b.meetsBudget env) else allChans.filter (b.meetsPoolLow env)

/-- The value of a level condition for a channel (R181). -/
def Body.levelValue (env : Env) (b : Body) (n : Fin 10) (c : ChanId) : CondValue :=
  if n = Condition.budgetExpired.num then .budget c (b.elapsed env c) else .poolLow c (b.freeSlots c)

/-- Value and MORE of a condition as READ_CAUSE gives them (R181). -/
def Body.causeValue (env : Env) (b : Body) (n : Fin 10) : Option CondValue × Bool :=
  if isLevel n then
    ((b.levelChans env n).head?.map (b.levelValue env n), decide (2 ≤ (b.levelChans env n).length))
  else (b.att[n].value, b.att[n].more)

/-- READ_CAUSE's reply (R181). -/
def Body.causeBytes (env : Env) (b : Body) : List Byte :=
  optField 1 (fun n : Fin 10 => be1 n.val) b.causeNo ++
    optField 6 CondValue.bytes (b.causeNo.bind fun n => (b.causeValue env n).1) ++
    optField 1 yesNo (b.causeNo.map fun n => (b.causeValue env n).2) ++ b.pendingMask ++ b.enabledMask ++
    (allConds.flatMap fun n => be1 b.att[n].line.code)

/-- READ_CAUSE (R181). -/
def execReadCause (p : PortId) (s : State) : Result :=
  serve p (fun r => match r with
    | .readCause => some fun s => s.accept (s.body.causeBytes s.env)
    | _ => none) s

/-- READ_PLAN (R96). -/
def execReadPlan (p : PortId) (s : State) : Result :=
  serve p (fun r => match r with
    | .readPlan n => some fun s =>
      match slotOf n with
      | none => s.refuse .badArg
      | some i => s.accept (planBytes s.plan[i])
    | _ => none) s

/-- A value of an item in READ_CONFIG: one byte for AUTO_RELEASE and DEVICE_SPARES_USE (R190), four for every other item
(log 16). -/
def itemValue (n v : Nat) : List Byte := if n = 12 ∨ n = 13 then be1 v else be4 v

/-- The values of all items in item-number order (R169). -/
def Items.allBytes (i : Items) : List Byte := i.values.zipIdx.flatMap fun x => itemValue x.2 x.1

/-- Value, least, greatest and default of one item (R169). -/
def Items.itemBytes (i : Items) (n : Nat) : List Byte :=
  let r := itemRanges.getD n (0, 0)
  itemValue n (i.values.getD n 0) ++ itemValue n r.1 ++ itemValue n r.2 ++ itemValue n (Items.default.values.getD n 0)

/-- READ_CONFIG (R169). -/
def execReadConfig (p : PortId) (s : State) : Result :=
  serve p (fun r => match r with
    | .readConfig m => some fun s =>
      if m.mark = 0 then s.accept s.items.allBytes
      else if m.mark = 1 ∧ m.value ≤ 13 then s.accept (s.items.itemBytes m.value)
      else s.refuse .badArg
    | _ => none) s

end Sys2Proof.Machine
end

