-- ==== Sys2Proof/Machine/LinkEvents.lean ====
section
/-! DEFINITION. Link events: training, loss of signal, acknowledgement timeout, the lane, frames arriving, malformed frames
and HELLO. -/

namespace Sys2Proof.Machine

/-- R127: INIT goes on the lane and the training timer starts again. -/
def Link.sendInit (k : Link) (l : ChanId) : Link := { k with lane := some ⟨0#4, .init l⟩, training := some 1 }

/-- TRAINING_TIMER_EXPIRY (R127). -/
def execTrainingTimerExpiry (l : ChanId) (s : State) : Result :=
  onEvent s (s.body.link[l].state == .training && s.body.link[l].training == some 0) fun _ b => b.modLink l (·.sendInit l)

/-- LOSS_OF_SIGNAL (R129); in TRAINING it changes nothing (R127). -/
def execLossOfSignal (l : ChanId) (s : State) : Result :=
  onEvent s (s.body.linkUp l) fun env b => b.linkDown env l Counters.signalLoss

/-- ACK_TIMER_EXPIRY (R143). -/
def execAckTimerExpiry (l : ChanId) (seq : BitVec 4) (s : State) : Result :=
  onEvent s (s.body.linkUp l && s.body.link[l].inflight.any fun f => f.seq == seq && f.timer == 0) fun env b =>
    b.linkDown env l Counters.ackTimeout

/-- FRAME_SENT (R138): the frame on the lane has finished, and the head of the send queue goes on it unless it waits. -/
def execFrameSent (l : ChanId) (s : State) : Result :=
  onEvent s true fun env b => (b.modLink l fun k => { k with lane := none }).advanceLane env l

/-- R133: the receive slot for a sequence number is busy. -/
def Link.slotBusy (k : Link) (seq : BitVec 4) : Bool := k.rx.any fun g => g.seq.getLsbD 0 == seq.getLsbD 0

/-- R133, R134: a frame enters its receive slot and moves the expected sequence. -/
def Link.accept (k : Link) (f : RxFrame) : Link := { k with rx := k.rx ++ [f], expected := f.seq + 1#4 }

/-- R134: a gap is counted and flagged. -/
def Link.noteGap (k : Link) : Link :=
  { k with gap := true, counters := { k.counters with gaps := bump k.counters.gaps } }

/-- R134, R87: a frame accepted in UP, and what its channel does on a gap. -/
def Body.acceptFrame (env : Env) (b : Body) (l : ChanId) (f : RxFrame) : Body :=
  let b1 := b.modLink l (·.accept f)
  if f.seq = b.link[l].expected then b1
  else
    let b2 := b1.modLink l Link.noteGap
    if b2.chan[l].state = .test then b2.failChannel env l .linkError else b2

/-- R132: the checks of a frame that arrives, in order. -/
def Body.receive (env : Env) (b : Body) (l : ChanId) (bytes : List Byte) : Body :=
  match parseLinkFrame bytes with
  | none => b.modLink l fun k => { k with counters := { k.counters with crcDiscards := bump k.counters.crcDiscards } }
  | some f =>
    match b.link[l].state with
    | .training => if f.is 0x81#8 then b.modLink l fun k => { k with rx := [f] } else b
    | .up =>
      if b.link[l].slotBusy f.seq then
        b.modLink l fun k => { k with counters := { k.counters with overruns := bump k.counters.overruns } }
      else b.acceptFrame env l f
    | .down => b

/-- FRAME_ARRIVAL (R132). -/
def execFrameArrival (l : ChanId) (bytes : List Byte) (s : State) : Result :=
  onEvent s true fun env b => b.receive env l bytes

/-- MALFORMED_FRAME (R135). -/
def execMalformedFrame (l : ChanId) (s : State) : Result :=
  takeFrame l (fun f => !f.wellFormed)
    (fun _ b _ => some (b.modLink l fun k =>
      { k with counters := { k.counters with malformed := bump k.counters.malformed } })) s

/-- R128: the link record on reaching UP. -/
def Link.reachUp (k : Link) (f : RxFrame) : Link :=
  { k with
    state := .up
    training := none
    nextTx := 0#4
    expected := f.seq + 1#4
    counters := { k.counters with timesUp := bump k.counters.timesUp } }

/-- R128: a HELLO handled in TRAINING; one handled in UP is discarded. -/
def Body.takeHello (env : Env) (b : Body) (l : ChanId) (f : RxFrame) : Option Body :=
  if b.link[l].state = .training then
    let b1 := b.modLink l fun k => { k with lastHello := some (f.at 0) }
    some (if f.at 0 = 1#8 then (b1.modLink l (·.reachUp f)).linkReachedUp env l else b1)
  else none

/-- HELLO (R128). -/
def execHello (l : ChanId) (s : State) : Result :=
  takeFrame l (·.is 0x81#8) (fun env b f => b.takeHello env l f) s

end Sys2Proof.Machine
end

