-- ==== Sys2Proof/Machine/Messages.lean ====
section
/-! DEFINITION. Client messages handled by their owners: GEOMETRY, STEP_DONE, FAIL, ACK, DRAINED, REPORT and QUERY. -/

namespace Sys2Proof.Machine

/-! ### GEOMETRY -/

/-- GEOMETRY (R67, R27, R42 to R46). -/
def execGeometry (l : ChanId) (s : State) : Result :=
  takeFrame l (·.is 0x82#8) (fun env b f => b.takeGeometry env l f.geometry) s

/-! ### STEP_DONE -/

/-- A HALTED outcome fails the channel: built-in and mandatory steps (R69, R98). -/
def stepMandatory (env : Env) : StepKind → Bool
  | .poolcheck | .verify _ => true
  | .plan n => (env.plan[n].map (·.mandatory)).getD true

/-- How a run goes on after a step (R71, R74, R78). -/
def Body.afterStep (env : Env) (b : Body) (c : ChanId) : StepKind → Body
  | .poolcheck => b.enterSeedInstall env c
  | .plan n => Body.walkPlan env c (slotsFrom (n.val + 1)) b
  | .verify _ => if b.chan[c].roundFailed then b.enterRepairInstall env c else b.enterReleasing env c

/-- R69: the outcome of the outstanding step. -/
def Body.stepOutcome (env : Env) (b : Body) (c : ChanId) (k : StepKind) (outcome : Byte) : Body :=
  if outcome = 0#8 then (b.endStep env c).afterStep env c k
  else if outcome = 1#8 then
    if stepMandatory env k then b.failChannel env c .agent
    else ((b.endStep env c).modChan c fun ch => { ch with skipped := ch.skipped + 1 }).afterStep env c k
  else if outcome = 2#8 then b.failChannel env c .agent
  else b.failChannel env c .protocol

/-- The outstanding step of a channel in TEST, if it has this token (R69, R70). -/
def Body.stepOf (b : Body) (c : ChanId) (token : Byte) : Option Running :=
  if b.chan[c].state = .test then b.chan[c].step.filter fun r => r.token == token else none

/-- STEP_DONE (R69). -/
def execStepDone (l : ChanId) (s : State) : Result :=
  takeFrame l (·.is 0x83#8)
    (fun env b f => (b.stepOf l (f.at 0)).map fun r => b.stepOutcome env l r.kind (f.at 1)) s

/-! ### FAIL -/

/-- A retarget in TEST with its repair count (R16, R79); UNREPAIRABLE when no target is left (R37). -/
def Body.testRetarget (env : Env) (b : Body) (c : ChanId) (e : EntryNo) (round : Option Nat) : Body :=
  match b.retarget env e round with
  | some b1 => b1.countRepair c
  | none => b.failChannel env c .unrepairable

/-- The entry that holds a pool slot of a channel. -/
def Body.slotHolder (b : Body) (c : ChanId) (slot : Nat) : Option EntryNo :=
  b.findEntry fun r => r.key.chan == c && r.repl == some (.target (.pool slot))

/-- R71: a FAIL in POOLCHECK for the row of a slot. -/
def Body.failPool (env : Env) (b : Body) (c : ChanId) (v : Inventory) (row : Nat) : Body :=
  let slot := row - (v.geo.rowsPerBank - v.geo.poolRows)
  match v.slots[slot]? with
  | some .free => b.modInv c (·.setSlot slot .bad)
  | some .used =>
    match b.slotHolder c slot with
    | some e => b.testRetarget env c e none
    | none => b
  | some .bad | none => b

/-- A bank's tally after a new entry (R33). -/
def Body.countTally (b : Body) (c : ChanId) (bank : Nat) : Body :=
  b.modInv c fun v => { v with tallies := v.tallies.modify bank (· + 1) }

/-- A bank's tally. -/
def Body.tally (b : Body) (c : ChanId) (bank : Nat) : Nat := (b.inv[c].map fun v => v.tallies.getD bank 0).getD 0

/-- R40: a BUFFER bank is excluded whole. R3 says that the whole-bank entry is created only after the bank's other entries are
freed; the model follows the order of R40, which creates it first (log 26). -/
def Body.excludeBank (env : Env) (b : Body) (c : ChanId) (bank : Nat) : Body :=
  match b.lowestFree with
  | none => b.failChannel env c .dirFull
  | some e =>
    let b1 := (b.createEntry e ⟨.pending, ⟨c, bank, none⟩, some .exclude, none, .test, b.deviceTag c, 0⟩).countRepair c
    ((b1.entriesWhere fun r => r.key.chan == c && r.key.bank == bank).filter (· != e)).foldl Body.freeEntry b1

/-- R39, R40: the bank limit. -/
def Body.bankLimit (env : Env) (b : Body) (c : ChanId) (bank : Nat) : Body :=
  if b.tally c bank ≤ env.items.bankFailLimit then b
  else if isBuffer c then b.excludeBank env c bank
  else b.failChannel env c .bankLimit

/-- R38: a FAIL in MAIN for a row that has no entry. -/
def Body.failNew (env : Env) (b : Body) (k : Key) : Body :=
  match b.lowestFree with
  | none => b.failChannel env k.chan .dirFull
  | some e =>
    match b.choose env k.chan k.bank with
    | none => b.failChannel env k.chan .unrepairable
    | some x => (((b.createRow e k x .test).countRepair k.chan).countTally k.chan k.bank).bankLimit env k.chan k.bank

/-- R75: a FAIL in MAIN. -/
def Body.failMain (env : Env) (b : Body) (k : Key) : Body :=
  match b.findKey k with
  | none => b.failNew env k
  | some e =>
    match b.dir[e].live with
    | some r =>
      match r.st, r.repl with
      | .active, some (.target _) => b.testRetarget env k.chan e none
      | _, _ => b
    | none => b

/-- R77: the round has had a failure. -/
def Body.markRound (b : Body) (c : ChanId) : Body := b.modChan c fun ch => { ch with roundFailed := true }

/-- The row-exclusion count of a channel (R32). -/
def Body.exclusions (b : Body) (c : ChanId) : Nat := (b.inv[c].map (·.exclusions)).getD 0

/-- R77: a FAIL in VERIFY round k for an ACTIVE entry with a target. -/
def Body.failVerifyActive (env : Env) (b : Body) (c : ChanId) (e : EntryNo) (k : Nat) : Body :=
  if k < env.items.verifyRounds then (b.markRound c).testRetarget env c e (some k)
  else if isBuffer c ∧ b.exclusions c < Config.exclusionMax then ((b.markRound c).convert e k).countRepair c
  else b.failChannel env c .unrepairable

/-- R77: a FAIL in VERIFY round k. -/
def Body.failVerify (env : Env) (b : Body) (key : Key) (k : Nat) : Body :=
  match b.findKey key with
  | none => b
  | some e =>
    match b.dir[e].live with
    | some r =>
      match r.st, r.repl with
      | .active, some (.target _) => b.failVerifyActive env key.chan e k
      | _, _ => b
    | none => b

/-- R70, check 3: the row lies in the step's region. -/
def inRegion (g : Geometry) (r : Running) (bank row : Nat) : Bool :=
  match r.kind with
  | .poolcheck => g.inPool bank row
  | .plan _ => !g.inPool bank row
  | .verify _ => decide (⟨bank, row⟩ ∈ r.region)

/-- R70, check 4: a FAIL handled by its phase. -/
def Body.failByPhase (env : Env) (b : Body) (c : ChanId) (v : Inventory) (k : StepKind) (bank row : Nat) : Body :=
  match k with
  | .poolcheck => b.failPool env c v row
  | .plan _ => b.failMain env ⟨c, bank, some row⟩
  | .verify n => b.failVerify env ⟨c, bank, some row⟩ n

/-- R70: the checks of a FAIL whose token matches; none when its bank is excluded. -/
def Body.takeFail (env : Env) (b : Body) (c : ChanId) (r : Running) (bank row : Nat) : Option Body :=
  if b.excluded c bank then none
  else match b.inv[c] with
    | none => some (b.failChannel env c .protocol)
    | some v =>
      some (if v.geo.holds bank row && inRegion v.geo r bank row then b.failByPhase env c v r.kind bank row
        else b.failChannel env c .protocol)

/-- FAIL (R70). -/
def execFail (l : ChanId) (s : State) : Result :=
  takeFrame l (·.is 0x84#8)
    (fun env b f => (b.stepOf l (f.at 0)).bind fun r => b.takeFail env l r (f.num 1 1) (f.num 2 3)) s

/-! ### ACK -/

/-- An entry's REJECT in TEST or RESYNC (R12, R122): a refused target is replaced and its INSTALL sent at once; UNREPAIRABLE
when nothing is left. In TEST the repair is counted, in RESYNC the new frame is awaited. -/
def Body.rejectTarget (env : Env) (b : Body) (c : ChanId) (e : EntryNo) : Body :=
  match b.retarget env e none with
  | none => b.failChannel env c .unrepairable
  | some b1 => if b.chan[c].state = .resync then (b1.sendInstall e true).await c else (b1.sendInstall e false).countRepair c

/-- A row entry of kind DEVICE or POOL joins the REPAIRED list (R73). -/
def Body.noteRepaired (b : Body) (c : ChanId) (r : Live) : Body :=
  match r.key.row, r.repl with
  | some row, some (.target _) => b.addRepaired c ⟨r.key.bank, row⟩
  | _, _ => b

/-- An install on a TABLE channel whose contents are owed (R12, R114). -/
def Body.owe (b : Body) (e : EntryNo) (k : Key) : Body := (b.setEntryState e .refill).raise .refillNeeded (.key k)

/-- R12: the ACK OK of an INSTALLING entry. -/
def Body.installed (env : Env) (b : Body) (c : ChanId) (e : EntryNo) (r : Live) : Body :=
  match b.chan[c].state with
  | .test => ((b.activate e).noteRepaired c r).checkInstallPhase env c
  | .resync => if isBuffer c then b.activate e else b.owe e r.key
  | .ready => b.activate e
  | .service => if isBuffer c then (b.activate e).raise .repairDone (.key r.key) else b.owe e r.key
  | .down | .idle | .lost | .failed => b

/-- R12: the ACK REJECT of an INSTALLING entry. -/
def Body.installRefused (env : Env) (b : Body) (c : ChanId) (e : EntryNo) (r : Live) : Body :=
  match b.chan[c].state, r.repl with
  | .test, some (.target (.device _ _)) | .resync, some (.target (.device _ _)) => b.rejectTarget env c e
  | .down, _ | .idle, _ | .lost, _ | .failed, _ => b
  | _, _ => b.failChannel env c .protocol

/-- R122: the ACK REJECT of a mapping in force, sent again by RESYNC. -/
def Body.mappingRefused (env : Env) (b : Body) (c : ChanId) (e : EntryNo) (r : Live) : Body :=
  match b.chan[c].state, r.repl with
  | .resync, some (.target _) => b.rejectTarget env c e
  | .resync, _ => b.failChannel env c .protocol
  | _, _ => b

/-- R15: the ACK of a REMOVE frees the entry; on a TABLE channel in SERVICE the contents are owed. -/
def Body.removed (b : Body) (c : ChanId) (e : EntryNo) (r : Live) : Body :=
  let b1 := b.freeEntry e
  if b.chan[c].state = .service ∧ isBuffer c = false then b1.raise .refillNeeded (.key r.key) else b1

/-- R22: a result that reaches an entry of the generation recorded. -/
def Body.ackEntry (env : Env) (b : Body) (c : ChanId) (e : EntryNo) (r : Live) (ok : Bool) : Body :=
  match r.st with
  | .installing => if ok then b.installed env c e r else b.installRefused env c e r
  | .active | .refill => if ok then b else b.mappingRefused env c e r
  | .removing => b.removed c e r
  | .unresolved | .pending | .fencing | .retireWait | .retireFencing => b

/-- R22, R122: the ACK of an INSTALL or a REMOVE. A REJECT that is ignored fails a channel in RESYNC. -/
def Body.ackDirectory (env : Env) (b : Body) (c : ChanId) (e : EntryNo) (gen : Byte) (resync ok : Bool) : Body :=
  let b1 := if resync then b.answered c else b
  match b.dir[e].live with
  | some r =>
    if b.dir[e].gen = gen then b1.ackEntry env c e r ok
    else if resync ∧ ok = false ∧ b.chan[c].state = .resync then b1.failChannel env c .protocol else b1
  | none => if resync ∧ ok = false ∧ b.chan[c].state = .resync then b1.failChannel env c .protocol else b1

/-- R122: the ACK of CLEAR_SET. -/
def Body.ackClearSet (env : Env) (b : Body) (c : ChanId) (ok : Bool) : Body :=
  if b.chan[c].state = .resync then
    if ok then b.answered c else (b.answered c).failChannel env c .protocol
  else b

/-- TEST_DONE with the run's counts (R79, R80). -/
def Body.testDone (b : Body) (c : ChanId) : Body :=
  b.raise .testDone (.testDone c b.chan[c].skipped b.chan[c].repairs)

/-- R80, R81: the ACK of the RELEASE of a run or of READY. -/
def Body.ackRunRelease (env : Env) (b : Body) (c : ChanId) (ok : Bool) : Body :=
  if b.chan[c].releaseOut then
    match b.chan[c].state, b.chan[c].phase with
    | .test, some .releasing => if ok then (b.testDone c).enterService env c else b.failChannel env c .protocol
    | .ready, _ => if ok then b.enterService env c else b.failChannel env c .protocol
    | _, _ => b
  else b

/-- R123: the ACK of the RELEASE that ends RESYNC. -/
def Body.ackResyncRelease (env : Env) (b : Body) (c : ChanId) (ok : Bool) : Body :=
  if b.chan[c].releaseOut ∧ b.chan[c].state = .resync then
    if ok then b.enterService env c else b.failChannel env c .protocol
  else b

/-- R142: the result goes with the frame's note to its owner. -/
def Body.ackOwner (env : Env) (b : Body) (c : ChanId) (n : Note) (ok : Bool) : Body :=
  match n with
  | .directory e gen resync => b.ackDirectory env c e gen resync ok
  | .clearSet => b.ackClearSet env c ok
  | .release .resync false => b.ackResyncRelease env c ok
  | .release .run false | .release .ready false => b.ackRunRelease env c ok
  | .release _ true | .lift _ | .none => b

/-- R142: a frame leaves the in-flight list. -/
def Link.unflight (k : Link) (seq : BitVec 4) : Link := { k with inflight := k.inflight.filter fun f => f.seq != seq }

/-- R142: an ACK; none when no frame in flight has its sequence number. -/
def Body.takeAck (env : Env) (b : Body) (c : ChanId) (f : RxFrame) : Option Body :=
  if 15 < (f.at 0).toNat then none
  else
    let seq : BitVec 4 := (f.at 0).truncate 4
    (b.link[c].inflight.find? fun g => g.seq == seq).map fun g =>
      (((b.modLink c (·.unflight seq)).ackOwner env c g.note (f.at 1 == 0#8)).resyncCheck c).advanceLane env c

/-- ACK (R142). -/
def execAck (l : ChanId) (s : State) : Result := takeFrame l (·.is 0x85#8) (fun env b f => b.takeAck env l f) s

/-! ### DRAINED -/

/-- R110: the end of a fence by its DRAINED. -/
def Body.drain (env : Env) (b : Body) (c : ChanId) (f : Fence) : Body :=
  let b1 := b.modFence c fun u => { u with out := none }
  (match f.purpose with
    | .install => b1.sendInstall f.entry false
    | .remove => b1.sendRemove f.entry).serveHead env c

/-- The fence that a DRAINED answers: serial and key agree and the channel is in SERVICE (R110). -/
def Body.drainedFence (b : Body) (c : ChanId) (f : RxFrame) : Option Fence :=
  if b.chan[c].state = .service then
    (b.fenceOf c).out.filter fun o => o.serial == f.at 0 && o.bank == f.num 1 1 && o.row == f.drainedRow
  else none

/-- DRAINED (R110). -/
def execDrained (l : ChanId) (s : State) : Result :=
  takeFrame l (·.is 0x86#8) (fun env b f => (b.drainedFence l f).map (b.drain env l)) s

/-! ### REPORT -/

/-- The weight of a report. -/
def ReportKind.weight : ReportKind → Nat
  | .ce1 => 8
  | .cem => 32
  | .ue => 512

/-- A record made from a report (R50). -/
def Watch.fresh (c : ChanId) (bank row : Nat) (k : ReportKind) : Watch :=
  ⟨c, bank, row, k.weight, if k = .ue then 0 else 1, k == .ue⟩

/-- A record that a report is added to (R49). -/
def Watch.add (w : Watch) (k : ReportKind) : Watch :=
  { w with
    score := min (w.score + k.weight) Config.scoreMax
    correctable := if k = .ue then w.correctable else min (w.correctable + 1) 255
    ueSeen := w.ueSeen || k == .ue }

/-- The record of lowest score, of lowest index among equals (R51). -/
def Body.lowestWatch (b : Body) : Option (WatchNo × Watch) :=
  b.numberedWatch.foldl (fun best x =>
    match x.2, best with
    | some w, none => some (x.1, w)
    | some w, some (i, v) => if w.score < v.score then some (x.1, w) else some (i, v)
    | none, _ => best) none

/-- Put a record in the watch table. -/
def Body.setWatch (b : Body) (i : WatchNo) (w : Watch) : Body := { b with watch := b.watch.set i (some w) }

/-- A record ends up holding the report: the trigger is evaluated for it (R55). -/
def Body.score (env : Env) (b : Body) (i : WatchNo) (w : Watch) : Body :=
  (b.setWatch i w).trigger env false ⟨w.chan, w.bank, some w.row⟩ w.score

/-- R51: a report that finds the table full. -/
def Body.scoreFull (env : Env) (b : Body) (c : ChanId) (w : Watch) : Body :=
  let b1 := b.raise .watchFull (.channel c)
  match b.lowestWatch with
  | some (i, v) => if v.score < w.score then b1.score env i w else b1
  | none => b1

/-- R49 to R51: a report that is acted on. -/
def Body.addReport (env : Env) (b : Body) (c : ChanId) (bank row : Nat) (k : ReportKind) : Body :=
  match b.findWatch c bank row with
  | some i =>
    match b.watch[i] with
    | some w => b.score env i (w.add k)
    | none => b
  | none =>
    match b.freeWatch with
    | some i => b.score env i (Watch.fresh c bank row k)
    | none => b.scoreFull env c (Watch.fresh c bank row k)

/-- R48: the row can be watched now. -/
def Body.reportable (b : Body) (c : ChanId) (bank row : Nat) : Bool :=
  (b.chan[c].state == .service || b.chan[c].state == .resync || b.chan[c].state == .ready) &&
    b.inv[c].any (fun v => v.geo.ordinary bank row) && !b.excluded c bank

/-- R48: a REPORT; none when it is ignored. -/
def Body.takeReport (env : Env) (b : Body) (c : ChanId) (f : RxFrame) : Option Body :=
  if b.reportable c (f.num 0 1) (f.num 1 3) then some (b.addReport env c (f.num 0 1) (f.num 1 3) (reportKind (f.at 4)))
  else none

/-- REPORT (R48). -/
def execReport (l : ChanId) (s : State) : Result := takeFrame l (·.is 0x87#8) (fun env b f => b.takeReport env l f) s

/-! ### QUERY -/

/-- The states in which the client holds the directory's mapping (R146). -/
def EntryState.mapped : EntryState → Bool
  | .active | .refill | .retireWait | .removing => true
  | .unresolved | .pending | .fencing | .installing | .retireFencing => false

/-- What the row's entry decides of a ROW_STATUS, if anything (R146). -/
def entryStatus (g : Geometry) (r : Live) : Option RowStatus :=
  if r.st = .fencing ∨ r.st = .retireFencing then some .fenced
  else if r.st.mapped then
    match r.repl with
    | some .exclude => some .excluded
    | some (.target (.device n i)) => some (.repairedDevice n i)
    | some (.target (.pool s)) => some (.repairedPool g.poolBank (g.slotRow s))
    | none => none
  else none

/-- What the watch table decides of a ROW_STATUS (R146). -/
def Body.watchStatus (b : Body) (c : ChanId) (bank row : Nat) : RowStatus :=
  match (b.findWatch c bank row).bind fun i => b.watch[i] with
  | some w => .watched w.score
  | none => .normal

/-- R146: the status of a row, by the first line that applies. A pool-region row of an excluded pool bank is answered NORMAL by that
table's first line, where R41 says that a QUERY for a row of an excluded bank is answered EXCLUDED: following R146 is the model's
reading (log 29). -/
def Body.rowStatus (b : Body) (c : ChanId) (bank row : Nat) : RowStatus :=
  match b.inv[c] with
  | none => .normal
  | some v =>
    if v.geo.ordinary bank row = false then .normal
    else if b.excluded c bank then .excluded
    else
      (((b.findKey ⟨c, bank, some row⟩).bind fun e => b.dir[e].live).bind (entryStatus v.geo)).getD (b.watchStatus c bank row)

/-- QUERY (R146), answered while the link is UP. -/
def execQuery (l : ChanId) (s : State) : Result :=
  takeFrame l (·.is 0x88#8)
    (fun _ b f => some (b.offer l (.rowStatus (f.num 0 1) (f.num 1 3) (b.rowStatus l (f.num 0 1) (f.num 1 3))) .none)) s

end Sys2Proof.Machine
end

