-- ==== Sys2Proof/Machine/Timers.lean ====
section
/-! DEFINITION. Timer expiries of the channels, the fences, the watch table and the boot budget. -/

namespace Sys2Proof.Machine

/-- LINK_WAIT_EXPIRY (R66). -/
def execLinkWaitExpiry (c : ChanId) (s : State) : Result :=
  onEvent s (s.body.chan[c].state == .test && s.body.chan[c].linkWait == some 0) fun env b => b.failChannel env c .absent

/-- GEOMETRY_WAIT_EXPIRY (R67). -/
def execGeometryWaitExpiry (c : ChanId) (s : State) : Result :=
  onEvent s (s.body.chan[c].state == .test && s.body.chan[c].geomWait == some 0) fun env b => b.failChannel env c .geometry

/-- STEP_TIMER_EXPIRY (R68). -/
def execStepTimerExpiry (c : ChanId) (s : State) : Result :=
  onEvent s (s.body.chan[c].state == .test && s.body.chan[c].stepTimer == some 0) fun env b =>
    b.failChannel env c .stepTimeout

/-- R111: a fence ends without its DRAINED. -/
def Body.fenceExpired (env : Env) (b : Body) (c : ChanId) (f : Fence) : Body :=
  let b1 := b.offer c (.lift f.serial) (.lift f.serial)
  let b2 :=
    match f.purpose with
    | .install => b1.freeEntry f.entry
    | .remove => b1.activate f.entry
  ((b2.raise .fenceTimeout (.key ⟨c, f.bank, f.row⟩)).modFence c fun u => { u with out := none }).serveHead env c

/-- The outstanding fence of a client whose timer has run out. -/
def Body.dueFence (b : Body) (c : ChanId) : Option Fence := (b.fenceOf c).out.filter fun f => f.timer == 0

/-- FENCE_TIMER_EXPIRY (R111). -/
def execFenceTimerExpiry (c : ChanId) (s : State) : Result :=
  match s.body.dueFence c with
  | some f => onEvent s true fun env b => b.fenceExpired env c f
  | none => .next s

/-- R53: a record after one decay; freed at score 0. -/
def Watch.decay (w : Watch) : Option Watch := if 7 * w.score / 8 = 0 then none else some { w with score := 7 * w.score / 8 }

/-- R53: the decay of the whole table, one change. -/
def Body.decay (b : Body) : Body := { b with watch := b.watch.map fun o => o.bind Watch.decay }

/-- DECAY (R52, R53): the table decays and the timer starts its next period. -/
def execDecay (s : State) : Result :=
  if s.running && s.decayTimer == 0 then
    .next { s with body := s.body.decay, decayTimer := s.items.decayPeriod * 1000 }
  else .next s

/-- BUDGET_EXPIRY (R178): the pending field of BUDGET_EXPIRED follows the channels that meet it. -/
def execBudgetExpiry (c : ChanId) (s : State) : Result := onEvent s (s.body.meetsBudget s.env c) fun _ b => b

end Sys2Proof.Machine
end

