-- ==== Sys2Proof/Machine/Dispatch.lean ====
section
/-! DEFINITION. One arm for each command: its meaning. -/

namespace Sys2Proof.Machine

/-- The effect of a command on everything but the queue. -/
def exec (i : Instr) (s : State) : Host.Outcome State Fault Refusal :=
  match i with
  | .powerOnReset => Sys2Proof.Machine.execPowerOnReset s
  | .resetRelease st => Sys2Proof.Machine.execResetRelease st s
  | .refclkStop => Sys2Proof.Machine.execRefclkStop s
  | .refclkResume => Sys2Proof.Machine.execRefclkResume s
  | .requestWriteStart p addr data => Sys2Proof.Machine.execRequestWriteStart p addr data s
  | .requestWriteEnd p data => Sys2Proof.Machine.execRequestWriteEnd p data s
  | .i2cRead p start n ends => Sys2Proof.Machine.execI2cRead p start n ends s
  | .replyHoldExpiry p => Sys2Proof.Machine.execReplyHoldExpiry p s
  | .unparsedRequest p => Sys2Proof.Machine.execUnparsedRequest p s
  | .getStatus p => Sys2Proof.Machine.execGetStatus p s
  | .getChannel p => Sys2Proof.Machine.execGetChannel p s
  | .getLink p => Sys2Proof.Machine.execGetLink p s
  | .getInventory p => Sys2Proof.Machine.execGetInventory p s
  | .readEntry p => Sys2Proof.Machine.execReadEntry p s
  | .find p => Sys2Proof.Machine.execFind p s
  | .nextEntry p => Sys2Proof.Machine.execNextEntry p s
  | .readWatch p => Sys2Proof.Machine.execReadWatch p s
  | .findWatch p => Sys2Proof.Machine.execFindWatch p s
  | .readCause p => Sys2Proof.Machine.execReadCause p s
  | .readPlan p => Sys2Proof.Machine.execReadPlan p s
  | .readConfig p => Sys2Proof.Machine.execReadConfig p s
  | .seed p => Sys2Proof.Machine.execSeed p s
  | .addRepair p => Sys2Proof.Machine.execAddRepair p s
  | .retire p => Sys2Proof.Machine.execRetire p s
  | .refilled p => Sys2Proof.Machine.execRefilled p s
  | .startTest p => Sys2Proof.Machine.execStartTest p s
  | .stopTest p => Sys2Proof.Machine.execStopTest p s
  | .release p => Sys2Proof.Machine.execRelease p s
  | .writePlan p => Sys2Proof.Machine.execWritePlan p s
  | .setConfig p => Sys2Proof.Machine.execSetConfig p s
  | .clearAttention p => Sys2Proof.Machine.execClearAttention p s
  | .setAttention p => Sys2Proof.Machine.execSetAttention p s
  | .grant p => Sys2Proof.Machine.execGrant p s
  | .controlReset p => Sys2Proof.Machine.execControlReset p s
  | .trainingTimerExpiry l => Sys2Proof.Machine.execTrainingTimerExpiry l s
  | .lossOfSignal l => Sys2Proof.Machine.execLossOfSignal l s
  | .ackTimerExpiry l seq => Sys2Proof.Machine.execAckTimerExpiry l seq s
  | .frameSent l => Sys2Proof.Machine.execFrameSent l s
  | .frameArrival l bytes => Sys2Proof.Machine.execFrameArrival l bytes s
  | .malformedFrame l => Sys2Proof.Machine.execMalformedFrame l s
  | .hello l => Sys2Proof.Machine.execHello l s
  | .geometry l => Sys2Proof.Machine.execGeometry l s
  | .stepDone l => Sys2Proof.Machine.execStepDone l s
  | .fail l => Sys2Proof.Machine.execFail l s
  | .ack l => Sys2Proof.Machine.execAck l s
  | .drained l => Sys2Proof.Machine.execDrained l s
  | .report l => Sys2Proof.Machine.execReport l s
  | .query l => Sys2Proof.Machine.execQuery l s
  | .linkWaitExpiry c => Sys2Proof.Machine.execLinkWaitExpiry c s
  | .geometryWaitExpiry c => Sys2Proof.Machine.execGeometryWaitExpiry c s
  | .stepTimerExpiry c => Sys2Proof.Machine.execStepTimerExpiry c s
  | .fenceTimerExpiry c => Sys2Proof.Machine.execFenceTimerExpiry c s
  | .decay => Sys2Proof.Machine.execDecay s
  | .budgetExpiry c => Sys2Proof.Machine.execBudgetExpiry c s

end Sys2Proof.Machine
end

