-- ==== Sys2Proof/Machine/Tick.lean ====
section
/-! DEFINITION. One millisecond of the Time Base (R193), which a step on an empty queue passes (log 1): every running timer goes
down by 1, and the expiries that have come due are queued, in an order that the model leaves free (log 3). -/

namespace Sys2Proof.Machine

/-- A timer one millisecond later. -/
def Timer.tick (t : Timer) : Timer := t.map (· - 1)

/-- A channel's timers one millisecond later. -/
def Channel.tick (ch : Channel) : Channel :=
  { ch with
    linkWait := Timer.tick ch.linkWait
    geomWait := Timer.tick ch.geomWait
    stepTimer := Timer.tick ch.stepTimer }

/-- A frame's acknowledgement timer one millisecond later. -/
def Inflight.tick (f : Inflight) : Inflight := { f with timer := f.timer - 1 }

/-- A link's timers one millisecond later. -/
def Link.tick (k : Link) : Link := { k with training := Timer.tick k.training, inflight := k.inflight.map Inflight.tick }

/-- A fence timer one millisecond later. -/
def FenceUnit.tick (u : FenceUnit) : FenceUnit := { u with out := u.out.map fun f => { f with timer := f.timer - 1 } }

/-- A port's hold timer one millisecond later. -/
def Port.tick (r : Port) : Port := { r with hold := Timer.tick r.hold }

/-- The timers of the blocks one millisecond later. -/
def Body.tick (b : Body) : Body :=
  { b with chan := b.chan.map Channel.tick, link := b.link.map Link.tick, fence := b.fence.map FenceUnit.tick }

/-- A command when it has come due. -/
def whenDue (due : Bool) (c : Instr) : List Instr := if due then [c] else []

/-- The expiries that have come due on a link. -/
def Link.dueList (k : Link) (l : ChanId) : List Instr :=
  whenDue (k.training == some 0) (.trainingTimerExpiry l) ++
    (k.inflight.filter fun f => f.timer == 0).map fun f => .ackTimerExpiry l f.seq

/-- A channel's budget runs out (R178): at the moment at which it is reached, and after that while BUDGET_EXPIRED does not show it
yet, so that an expiry which the absence of REFCLK held up comes when the clock is back (R193). -/
def Body.budgetDue (env : Env) (b : Body) (c : ChanId) : Bool :=
  b.chan[c].state == .test && decide (env.items.bootBudget ≤ b.elapsed env c) &&
    (b.elapsed env c == env.items.bootBudget || !b.att[Condition.budgetExpired.num].pending)

/-- The expiries that have come due on a channel. -/
def Body.dueList (env : Env) (b : Body) (c : ChanId) : List Instr :=
  whenDue (b.chan[c].linkWait == some 0) (.linkWaitExpiry c) ++
    whenDue (b.chan[c].geomWait == some 0) (.geometryWaitExpiry c) ++
    whenDue (b.chan[c].stepTimer == some 0) (.stepTimerExpiry c) ++
    whenDue (b.dueFence c).isSome (.fenceTimerExpiry c) ++ whenDue (b.budgetDue env c) (.budgetExpiry c)

/-- Every expiry that has come due. -/
def State.dueList (s : State) : List Instr :=
  (allChans.flatMap fun c => s.body.link[c].dueList c ++ s.body.dueList s.env c) ++
    whenDue (s.portA.hold == some 0) (.replyHoldExpiry .a) ++ whenDue (s.portB.hold == some 0) (.replyHoldExpiry .b) ++
    whenDue (s.decayTimer == 0) .decay

/-- Put a command at a free place of a list; `n` picks the place. Into an empty list there is one place. -/
def insertFree (n : Nat) (c : Instr) : List Instr → List Instr
  | [] => [c]
  | d :: ds => (d :: ds).insertIdx (Config.freeOrder n % (ds.length + 2)) c

/-- The commands of a list in a free order; `n` counts the picks made before (R25, R54, R88, R105, R149; log 3). -/
def freeOrdered (n : Nat) : List Instr → List Instr
  | [] => []
  | c :: cs => insertFree n c (freeOrdered (n + 1) cs)

/-- The state one millisecond later. -/
def State.tick (s : State) : State :=
  let s1 :=
    { s with
      now := s.now + 1#32
      portA := s.portA.tick
      portB := s.portB.tick
      decayTimer := s.decayTimer - 1
      body := s.body.tick }
  { s1 with pending := s1.pending ++ freeOrdered s.picks s1.dueList, picks := s.picks + s1.dueList.length }

/-- What the part does when no command waits: a millisecond passes; while RSTn is low or REFCLK absent, none does (R193). -/
def State.idle (s : State) : State := if s.running then s.tick else s

end Sys2Proof.Machine
end

