-- ==== Sys2Proof/Safety.lean ====
section
/-! DEFINITION. What the statements speak of: who asked for what, and the properties that every step keeps. -/

namespace Sys2Proof.Machine

/-! ### Requests and frames -/

/-- The command that carries out a request of a port. -/
def Request.command (p : PortId) : Request → Instr
  | .getStatus => .getStatus p
  | .getChannel _ => .getChannel p
  | .getLink _ => .getLink p
  | .getInventory .. => .getInventory p
  | .readEntry _ => .readEntry p
  | .find _ => .find p
  | .nextEntry .. => .nextEntry p
  | .readWatch .. => .readWatch p
  | .findWatch .. => .findWatch p
  | .readCause => .readCause p
  | .readPlan _ => .readPlan p
  | .readConfig _ => .readConfig p
  | .seed .. => .seed p
  | .addRepair .. => .addRepair p
  | .retire .. => .retire p
  | .refilled .. => .refilled p
  | .startTest _ => .startTest p
  | .stopTest _ => .stopTest p
  | .release _ => .release p
  | .writePlan .. => .writePlan p
  | .setConfig .. => .setConfig p
  | .clearAttention _ => .clearAttention p
  | .setAttention .. => .setAttention p
  | .grant .. => .grant p
  | .controlReset => .controlReset p

/-- The executor is carrying out this request of this port, whose class the port may use (R159, R164). -/
def State.Asked (s : State) (p : PortId) (tag : Byte) (rq : Request) : Prop :=
  s.executing p = some (tag, rq) ∧ s.allows p rq = true

/-- Carrying out the request leaves the state `t` with this reply in the port's reply slot (R159). -/
def Answers (s : State) (p : PortId) (tag : Byte) (rq : Request) (t : State) (st : Status) (payload : List Byte) : Prop :=
  exec (rq.command p) s = .next (t.placeReply p (replyFrame tag rq.code st payload))

/-- The request is refused: nothing changes but the port's own record (R160). -/
def Refused (s : State) (p : PortId) (tag : Byte) (rq : Request) (st : Status) : Prop := Answers s p tag rq s st []

/-- The part works and the oldest frame that the link holds is `f` (R133). -/
def State.HoldsFrame (s : State) (l : ChanId) (f : RxFrame) : Prop :=
  s.running = true ∧ s.body.link[l].rx.head? = some f

/-- A number fits so many bytes. -/
def FitsBytes (bytes n : Nat) : Prop := n < 256 ^ bytes

/-- The numbers of a target fit their bytes (R189). -/
def Target.InRange : Target → Prop
  | .device g i => FitsBytes 1 g ∧ FitsBytes 1 i
  | .pool s => FitsBytes 1 s

/-- The numbers of a message fit their bytes (R189). -/
def Msg.InRange : Msg → Prop
  | .init _ | .discover | .halt | .clearSet | .release | .lift _ => True
  | .runStep _ _ _ ops k _ => ops.length ≤ 6 ∧ FitsBytes 1 k
  | .install b r x => FitsBytes 1 b ∧ (∀ n, r = some n → FitsBytes 3 n) ∧ ∀ t, x = .target t → t.InRange
  | .remove b r => FitsBytes 1 b ∧ ∀ n, r = some n → FitsBytes 3 n
  | .fence _ b r => FitsBytes 1 b ∧ ∀ n, r = some n → FitsBytes 3 n
  | .rowStatus b r st => FitsBytes 1 b ∧ FitsBytes 3 r ∧
    match st with
    | .watched n => FitsBytes 2 n
    | .repairedDevice g i => FitsBytes 1 g ∧ FitsBytes 1 i
    | .repairedPool pb pr => FitsBytes 1 pb ∧ FitsBytes 3 pr
    | .normal | .fenced | .excluded => True

/-! ### Frames of the statements -/

/-- Outside its blocks the state `t` is as `s` is: clock, configuration, plan, grants, ports, executor, decay timer, queue. -/
def SameOutsideBody (s t : State) : Prop := t = { s with body := t.body }

/-- Outside its ports and its executor the state `t` is as `s` is. -/
def SameOutsidePorts (s t : State) : Prop := t = { s with portA := t.portA, portB := t.portB, executor := t.executor }

/-- The executor goes on: one that executes goes on executing; an idle one takes a request that has entered a slot, port A's
first (R159). -/
def ExecutorTakes (s t : State) : Prop :=
  t.executor = match s.executor with
    | some p => some p
    | none => if t.portA.req.isSome then some .a else if t.portB.req.isSome then some .b else none

/-- The two level conditions are pending exactly when the state that defines them holds (R178, R179). -/
def LevelsHold (env : Env) (b : Body) : Prop :=
  (b.att[(5 : Fin 10)].pending = true ↔ ∃ c : ChanId, b.chan[c].state = .test ∧ env.items.bootBudget ≤ b.elapsed env c) ∧
  (b.att[(6 : Fin 10)].pending = true ↔ ∃ c : ChanId, b.chan[c].state = .service ∧ b.freeSlots c < env.items.poolLowMark)

/-- Attention but for the conditions named: the edge conditions are as before, and the level conditions follow the state. -/
def AttentionBut (raised : List (Fin 10)) (env : Env) (b b' : Body) : Prop :=
  LevelsHold env b' ∧ ∀ n : Fin 10,
    (isLevel n = true → b'.att[n] = { b.att[n] with pending := b'.att[n].pending }) ∧
    (isLevel n = false → n ∉ raised → b'.att[n] = b.att[n])

/-- The blocks `b'` differ from `b` in the record of one link alone, and in attention. -/
def LinkOnly (l : ChanId) (b b' : Body) : Prop :=
  b' = { b with link := b'.link, att := b'.att } ∧ ∀ m : ChanId, m ≠ l → b'.link[m] = b.link[m]

/-- The blocks `b'` differ from `b` in the records of one channel and its link alone, and in attention. -/
def ChannelOnly (c : ChanId) (b b' : Body) : Prop :=
  b' = { b with link := b'.link, chan := b'.chan, att := b'.att } ∧
  ∀ m : ChanId, m ≠ c → b'.link[m] = b.link[m] ∧ b'.chan[m] = b.chan[m]

/-- The checks of a request, made in order: the first that fails gives the refusal, and a request that none refuses passes
(R160). -/
def Checked (refused : Status → Prop) (passes : Prop) : List (Prop × Status) → Prop
  | [] => passes
  | (fails, st) :: rest => (fails → refused st) ∧ (¬fails → Checked refused passes rest)

/-- The least number with a property. -/
def Least (p : Nat → Prop) (n : Nat) : Prop := p n ∧ ∀ m, m < n → ¬p m

/-- The operand names this key, and the key is valid (R2). -/
def KeyValid (b : Body) (o : KeyOp) (k : Key) : Prop :=
  o.chan = k.chan.val ∧ o.bank = k.bank ∧ k.bank ≤ 31 ∧
  ((o.scope = 0 ∧ k.row = some o.row ∧ o.row ≤ 131071) ∨ (o.scope = 1 ∧ k.row = none ∧ k.chan.val < 8)) ∧
  ∀ v, b.inv[k.chan] = some v → k.bank < v.geo.banks ∧
    ∀ r, k.row = some r → r < v.geo.rowsPerBank ∧ ¬(k.bank = v.geo.poolBank ∧ v.geo.rowsPerBank - v.geo.poolRows ≤ r)

/-- The bytes name this requested target or none, and it fits the key and the inventory; so does the tag (R7, check 1). -/
def SeedValid (b : Body) (k : Key) (tag mark t0 t1 : Nat) (t : Option Target) : Prop :=
  ((mark = 0 ∧ t = none) ∨ (mark = 1 ∧ t0 ≤ 31 ∧ t1 ≤ 3 ∧ t = some (.device t0 t1)) ∨
    (mark = 2 ∧ t0 ≤ 127 ∧ t = some (.pool t0))) ∧
  (t ≠ none → k.row ≠ none) ∧
  ∀ v, b.inv[k.chan] = some v → (tag = 0 ∨ tag = v.tag.toNat) ∧
    match t with
    | none => True
    | some (.device g i) => g = k.bank / v.geo.banksPerGroup ∧ i < v.geo.sparesPerGroup
    | some (.pool n) => n < v.geo.poolRows

/-- A non-FREE whole-bank entry exists for the bank (R3). -/
def BankExcluded (b : Body) (c : ChanId) (bank : Nat) : Prop :=
  ∃ (e : EntryNo) (r : Live), b.dir[e].live = some r ∧ r.key = ⟨c, bank, none⟩

/-- The lowest-numbered FREE entry (R4). -/
def LowestFree (b : Body) (e : EntryNo) : Prop := b.dir[e].live = none ∧ ∀ d : EntryNo, d < e → b.dir[d].live ≠ none

/-- What settling makes of an entry (R21). -/
def Entry.settled (x : Entry) : Entry :=
  match x.live with
  | none => x
  | some r =>
    match r.st with
    | .fencing | .installing => ⟨x.gen + 1#8, some { r with st := .pending }⟩
    | .retireWait | .retireFencing | .removing => ⟨x.gen + 1#8, none⟩
    | .unresolved | .pending | .active | .refill => x

/-- Settling channel `c` frees this entry (R21). -/
def SettleFrees (b : Body) (c : ChanId) (e : EntryNo) (r : Live) : Prop :=
  b.dir[e].live = some r ∧ r.key.chan = c ∧ r.st ∈ [.retireWait, .retireFencing, .removing]

/-- The blocks `b'` are `b` with the channels of `cs` settled (R21): entries in the middle of an exchange are PENDING or freed, what
the freed ones held is returned (R18) and their rows leave the REPAIRED list (R73), and the fence queues are empty. -/
def Settled (cs : ChanId → Prop) (b b' : Body) : Prop :=
  b' = { b with dir := b'.dir, inv := b'.inv, chan := b'.chan, fence := b'.fence } ∧
  (∀ e : EntryNo, ((∃ r, b.dir[e].live = some r ∧ cs r.key.chan) → b'.dir[e] = b.dir[e].settled) ∧
    ((∀ r, b.dir[e].live = some r → ¬cs r.key.chan) → b'.dir[e] = b.dir[e])) ∧
  (∀ c : ChanId, (¬cs c ∨ b.inv[c] = none → b'.inv[c] = b.inv[c]) ∧ ∀ v, cs c → b.inv[c] = some v → ∃ w, b'.inv[c] = some w ∧
    w = { v with spares := w.spares, slots := w.slots, exclusions := w.exclusions } ∧
    (∀ k, ((∃ e r, SettleFrees b c e r ∧ r.repl = some (.target (.pool k))) → w.slots[k]? = v.slots[k]?.map fun _ => .free) ∧
      ((∀ e r, SettleFrees b c e r → r.repl ≠ some (.target (.pool k))) → w.slots[k]? = v.slots[k]?)) ∧
    (∀ g i, ((∃ e r, SettleFrees b c e r ∧ r.repl = some (.target (.device g i))) →
        w.spare g i = (v.spare g i).map fun _ => .spent) ∧
      ((∀ e r, SettleFrees b c e r → r.repl ≠ some (.target (.device g i))) → w.spare g i = v.spare g i)) ∧
    w.exclusions = v.exclusions - (List.finRange 1024).countP fun e => b.dir[e].live.any fun r =>
      decide (r.key.chan = c ∧ r.st ∈ [.retireWait, .retireFencing, .removing] ∧ r.repl = some .exclude ∧ r.key.row ≠ none)) ∧
  (∀ f : Fin 8, b'.fence[f] = { b.fence[f] with queue := b'.fence[f].queue }) ∧
  (∀ (c : ChanId) (f : Fin 8), f.val = c.val →
    (cs c → b'.fence[f].queue = []) ∧ (¬cs c → b'.fence[f].queue = b.fence[f].queue)) ∧
  ∀ c : ChanId, b'.chan[c] = { b.chan[c] with repaired := b'.chan[c].repaired } ∧
    (¬cs c → b'.chan[c].repaired = b.chan[c].repaired) ∧
    (cs c → b'.chan[c].repaired.Sublist b.chan[c].repaired ∧ ∀ k, k ∈ b'.chan[c].repaired ↔
      k ∈ b.chan[c].repaired ∧ ∀ e r, SettleFrees b c e r → ¬(r.key.bank = k.bank ∧ r.key.row = some k.row))

/-- The blocks `b'` are `b` with the channels of `cs` stopped in TEST, before the arbiter scans (R84). The note of every RELEASE of
theirs is marked abandoned (log 19). -/
def Stopped (cs : ChanId → Prop) (b b' : Body) : Prop :=
  ∃ b1, Settled cs b b1 ∧ b' = { b1 with chan := b'.chan, link := b'.link } ∧
    (∀ c : ChanId, ¬cs c → b'.chan[c] = b.chan[c] ∧ b'.link[c] = b.link[c]) ∧
    ∀ c : ChanId, cs c →
      b'.chan[c] =
        { b.chan[c] with
          state := if b.link[c].state = .up then .idle else .down
          phase := none, planPos := none, step := none, admission := .none, releaseOut := false, installPos := none
          walkPos := none, awaited := none, linkWait := none, geomWait := none, stepTimer := none
          repaired := b1.chan[c].repaired } ∧
      let marked := fun (n : Note) => match n with
        | .release closes _ => .release closes true
        | x => x
      b'.link[c] =
        { b.link[c] with
          sendq := (b.link[c].sendq.map fun q => { q with note := marked q.note }) ++
            if b.link[c].state = .up then [⟨.halt, .none⟩] else []
          inflight := b.link[c].inflight.map fun f => { f with note := marked f.note } }

/-- A channel mask names a channel. -/
def Names (mask : Nat) (c : ChanId) : Prop := mask.testBit c.val = true

/-! ### Properties that every step keeps -/

/-- Every configuration item lies in its range (R166). -/
def ItemsInRange (i : Items) : Prop :=
  (100 ≤ i.bootBudget ∧ i.bootBudget ≤ 600000) ∧ (3 ≤ i.powerCeiling ∧ i.powerCeiling ≤ 28) ∧
  (16 ≤ i.repairThreshold ∧ i.repairThreshold ≤ 1023) ∧ (1 ≤ i.decayPeriod ∧ i.decayPeriod ≤ 3600) ∧
  (1 ≤ i.bankFailLimit ∧ i.bankFailLimit ≤ 64) ∧ (1 ≤ i.verifyRounds ∧ i.verifyRounds ≤ 3) ∧
  (1 ≤ i.ackTimeout ∧ i.ackTimeout ≤ 1000) ∧ (1 ≤ i.stepTimeout ∧ i.stepTimeout ≤ 600) ∧
  (10 ≤ i.fenceTimeout ∧ i.fenceTimeout ≤ 60000) ∧ (10 ≤ i.discoverWait ∧ i.discoverWait ≤ 10000) ∧
  (10 ≤ i.replyHold ∧ i.replyHold ≤ 1000) ∧ i.poolLowMark ≤ 128 ∧ i.autoRelease ≤ 1 ∧ i.deviceSparesUse ≤ 1

/-- The weights of the channels that hold admission stay at or below POWER_CEILING, and only channels in TEST wait for
admission or hold it (R101, R63). -/
def PowerKept (s : State) : Prop :=
  s.body.unitsInUse ≤ s.items.powerCeiling ∧ ∀ c : ChanId, s.body.chan[c].admission ≠ .none → s.body.chan[c].state = .test

/-- Every score lies between 1 and 1023, and no two records in use have the same key (R47). -/
def WatchKept (b : Body) : Prop :=
  (∀ (i : WatchNo) (w : Watch), b.watch[i] = some w → 1 ≤ w.score ∧ w.score ≤ 1023) ∧
  ∀ (i j : WatchNo) (w v : Watch), b.watch[i] = some w → b.watch[j] = some v → w.isFor v.chan v.bank v.row = true → i = j

/-- For each key at most one entry that is not FREE has it, and a bank with a whole-bank entry holds no other (R3). -/
def KeysDistinct (b : Body) : Prop :=
  (∀ (i j : EntryNo) (r q : Live), b.dir[i].live = some r → b.dir[j].live = some q → r.key = q.key → i = j) ∧
  ∀ (i j : EntryNo) (r q : Live), b.dir[i].live = some r → b.dir[j].live = some q → r.key.row = none →
    r.key.chan = q.key.chan → r.key.bank = q.key.bank → i = j

/-- Queues and lists keep their capacities (R107, R133, R137, R141). -/
def QueuesBounded (b : Body) : Prop :=
  (∀ f : Fin 8, b.fence[f].queue.length ≤ 32) ∧
  ∀ l : ChanId, b.link[l].sendq.length ≤ 176 ∧ b.link[l].inflight.length ≤ 8 ∧
    b.link[l].rx.Pairwise fun f g => f.seq.getLsbD 0 ≠ g.seq.getLsbD 0

/-- No link is left with a send overflow that has not been acted on (R140). -/
def NoOverflow (b : Body) : Prop := ∀ l : ChanId, b.link[l].overflow = false

/-- The send queue and the in-flight list of a link that is not UP are empty (R127, R129). -/
def EmptyWhenNotUp (b : Body) : Prop := ∀ l : ChanId, b.link[l].state ≠ .up → b.link[l].sendq = [] ∧ b.link[l].inflight = []

/-- The reply slot is empty whenever the request slot holds a request, and the read position lies within the reply (R151). A
request has at most 40 bytes (R152, R154). The other clauses are what a write under way rests on (R154). -/
def PortKept (r : Port) : Prop :=
  (r.req.isSome → r.reply = none) ∧ r.readPos ≤ (r.reply.getD []).length ∧ (r.writing.isSome → r.req = none) ∧
  (∀ b bs, r.writing = some (b :: bs) → r.reply = none) ∧ (∀ bs, r.writing = some bs → bs.length ≤ 40) ∧
  ∀ bs, r.req = some bs → bs.length ≤ 40

/-- The properties that every step keeps, together. -/
def Inv (s : State) : Prop :=
  ItemsInRange s.items ∧ PowerKept s ∧ WatchKept s.body ∧ KeysDistinct s.body ∧ QueuesBounded s.body ∧ NoOverflow s.body ∧
  EmptyWhenNotUp s.body ∧ PortKept s.portA ∧ PortKept s.portB

end Sys2Proof.Machine
end

