-- ==== Sys2Proof/Certificates/Slice0/Obligations.lean ====
section
/-! DEFINITION. The statements for the provers. `t` is always the state that a command answers; a statement's frame says what else
of it is as before. -/

open Sys2Proof Sys2Proof.Machine

/-! ### Steps, reset and the clock -/

/-- A step with a command at the front of its queue carries out that command on the state with the queue's rest. -/
def Obligations.StepTakesFrontCommand : Prop :=
  ∀ (c : Instr) (rest : List Instr) (s : State), step { s with pending := c :: rest } = exec c { s with pending := rest }

/-- With no command waiting the part passes one millisecond: the Time Base goes up by 1 modulo 2^32 and every running timer goes
down by 1 (R193), and the expiries that have come due are queued, in an order left free. A budget comes due when it is reached, and
again while BUDGET_EXPIRED does not show it (log 13). That an empty queue passes time is the model's choice (log 1), and so is the
free order (log 3). While RSTn is low or REFCLK is absent nothing happens. -/
def Obligations.EmptyQueuePassesOneMillisecond : Prop :=
  ∀ s : State, s.pending = [] →
    (s.running = false → step s = .next s) ∧
    (s.running = true → ∃ t, step s = .next t ∧
      t = { s with now := s.now + 1#32, portA := t.portA, portB := t.portB, decayTimer := s.decayTimer - 1, body := t.body,
                   pending := t.pending, picks := t.picks } ∧
      (∀ p, t.port p = { s.port p with hold := (s.port p).hold.map (· - 1) }) ∧
      t.body = { s.body with chan := t.body.chan, link := t.body.link, fence := t.body.fence } ∧
      (∀ c : ChanId, t.body.chan[c] =
        { s.body.chan[c] with
          linkWait := s.body.chan[c].linkWait.map (· - 1)
          geomWait := s.body.chan[c].geomWait.map (· - 1)
          stepTimer := s.body.chan[c].stepTimer.map (· - 1) }) ∧
      (∀ l : ChanId, t.body.link[l] =
        { s.body.link[l] with
          training := s.body.link[l].training.map (· - 1)
          inflight := s.body.link[l].inflight.map fun f => { f with timer := f.timer - 1 } }) ∧
      (∀ c : Fin 8, t.body.fence[c] =
        { s.body.fence[c] with out := s.body.fence[c].out.map fun f => { f with timer := f.timer - 1 } }) ∧
      t.pending.Perm t.dueList ∧
      (∀ l, .trainingTimerExpiry l ∈ t.pending ↔ t.body.link[l].training = some 0) ∧
      (∀ l q, .ackTimerExpiry l q ∈ t.pending ↔ ∃ f ∈ t.body.link[l].inflight, f.seq = q ∧ f.timer = 0) ∧
      (∀ c, .linkWaitExpiry c ∈ t.pending ↔ t.body.chan[c].linkWait = some 0) ∧
      (∀ c, .geometryWaitExpiry c ∈ t.pending ↔ t.body.chan[c].geomWait = some 0) ∧
      (∀ c, .stepTimerExpiry c ∈ t.pending ↔ t.body.chan[c].stepTimer = some 0) ∧
      (∀ c, .fenceTimerExpiry c ∈ t.pending ↔ ∃ (k : Fin 8) (f : Fence), k.val = c.val ∧ t.body.fence[k].out = some f ∧
        f.timer = 0) ∧
      (∀ c, .budgetExpiry c ∈ t.pending ↔
        t.body.chan[c].state = .test ∧ t.items.bootBudget ≤ t.body.elapsed t.env c ∧
        (t.body.elapsed t.env c = t.items.bootBudget ∨ t.body.att[(5 : Fin 10)].pending = false)) ∧
      (∀ p, .replyHoldExpiry p ∈ t.pending ↔ (t.port p).hold = some 0) ∧
      (.decay ∈ t.pending ↔ t.decayTimer = 0))

/-- Right after power-on reset every block holds the value that the chapters' reset rules give; the plan is the one that R97 prints.
That the machine starts with RSTn just released, an INIT on each lane, is the model's choice (log 4). -/
def Obligations.ResetLeavesPowerOnValues : Prop :=
  let s := State.reset
  (∀ e : EntryNo, s.body.dir[e] = ⟨0#8, none⟩) ∧ (∀ c : ChanId, s.body.inv[c] = none) ∧
  (∀ i : WatchNo, s.body.watch[i] = none) ∧
  (∀ c : ChanId, let ch := s.body.chan[c]
    ch.state = .down ∧ ch.phase = none ∧ ch.cause = none ∧ ch.runStart = none ∧ ch.step = none ∧ ch.admission = .none ∧
    ch.verifyRound = 0 ∧ ch.repaired = [] ∧ ch.skipped = 0 ∧ ch.repairs = 0 ∧ ch.releaseOut = false ∧ ch.nextToken = 0#8) ∧
  (∀ l : ChanId, let k := s.body.link[l]
    k.state = .training ∧ k.nextTx = 0#4 ∧ k.expected = 0#4 ∧ k.rx = [] ∧ k.sendq = [] ∧ k.inflight = [] ∧
    k.fenceSerial = 0#8 ∧ k.gap = false ∧ k.lastHello = none ∧ k.counters = ⟨0, 0, 0, 0, 0, 0, 0, 0⟩ ∧
    k.lane = some ⟨0#4, .init l⟩) ∧
  (∀ c : Fin 8, s.body.fence[c] = ⟨[], none⟩) ∧
  (∀ n : Fin 10, s.body.att[n] = ⟨false, false, if n.val < 4 then .hi else .lo, none, false⟩) ∧
  s.items.values = [30000, 12, 256, 60, 16, 3, 50, 60, 2000, 500, 100, 8, 1, 1] ∧ s.decayTimer = 60000 ∧
  s.items = Items.default ∧ s.plan = Plan.default ∧
  s.plan.toList = [some ⟨.up, .solid, [.w0], 0, true, .parallel, 0xFFF#12⟩,
    some ⟨.up, .solid, [.r0, .w1], 0, true, .parallel, 0xFFF#12⟩, some ⟨.down, .solid, [.r1, .w0], 0, true, .parallel, 0xFFF#12⟩,
    some ⟨.up, .checker, [.w0], 0, false, .parallel, 0xFFF#12⟩, some ⟨.up, .checker, [.r0], 14, false, .serial, 0xFFF#12⟩,
    some ⟨.down, .rowstripe, [.w1, .r1, .w0, .r0], 0, false, .parallel, 0xFFF#12⟩] ++ List.replicate 10 none ∧
  s.body.chan = Vector.replicate 12 Channel.initial ∧ s.body.att = Attention.initial ∧
  (∀ l : ChanId, s.body.link[l] = { Link.initial with training := some 1, lane := some ⟨0#4, .init l⟩ }) ∧
  s.grant = ⟨false, false⟩ ∧ s.now = 0#32 ∧ s.executor = none ∧
  (∀ p, let r := s.port p
    r.req = none ∧ r.reply = none ∧ r.readPos = 0 ∧ r.hold = none ∧ r.lastLoss = .none) ∧
  s.line .hi = false ∧ s.line .lo = false ∧ s.inReset = false ∧ s.pending = []

/-- POWER_ON_RESET puts every block at its power-on value and drops whatever is under way, raising nothing and sending nothing;
while RSTn is low no port acknowledges an address, both lines are released and every lane is idle. RESET_RELEASE samples the
straps, starts the Time Base at 0 and starts each link's training with an INIT (R192, R150). What the clock's absence at that
moment does is the model's choice (log 22), and so are a release that no reset came before (log 2) and the timers and addresses
while RSTn is low (log 5). -/
def Obligations.ResetPinHoldsAndReleases : Prop :=
  (∀ s : State, ∃ t, exec .powerOnReset s = .next t ∧ t.inReset = true ∧ t.refclk = s.refclk ∧ t.pending = s.pending ∧
    t.body.dir = Vector.replicate 1024 ⟨0#8, none⟩ ∧ t.body.inv = Vector.replicate 12 none ∧
    t.body.watch = Vector.replicate 256 none ∧ t.body.fence = Vector.replicate 8 ⟨[], none⟩ ∧
    t.body.chan = Vector.replicate 12 Channel.initial ∧ t.body.link = Vector.replicate 12 Link.initial ∧
    t.body.att = Attention.initial ∧ t.items = Items.default ∧ t.plan = Plan.default ∧ t.grant = ⟨false, false⟩ ∧
    t.decayTimer = 60000 ∧ t.executor = none ∧
    t.now = 0#32 ∧
    (∀ p, (t.port p).req = none ∧ (t.port p).reply = none ∧ (t.port p).readPos = 0 ∧ (t.port p).hold = none ∧
      (t.port p).lastLoss = .none ∧ (t.port p).writing = none ∧ (t.port p).reading = none) ∧
    (∀ l : ChanId, t.body.link[l].lane = none) ∧ t.line .hi = false ∧ t.line .lo = false ∧
    ∀ p addr data n ends, ∃ u v, exec (.requestWriteStart p addr data) t = .next u ∧ (u.port p).bus = ⟨some false, [], []⟩ ∧
      exec (.i2cRead p (some addr) n ends) t = .next v ∧ (v.port p).bus = ⟨some false, [], []⟩) ∧
  (∀ (s : State) (st : Straps), s.inReset = true → ∃ t, exec (.resetRelease st) s = .next t ∧
    t = { s with inReset := false, now := 0#32, portA := t.portA, portB := t.portB, body := t.body } ∧
    t.portA = { s.portA with addr := 0x48#7 + st.a.zeroExtend 7 } ∧
    t.portB = { s.portB with addr := 0x4C#7 + st.b.zeroExtend 7 } ∧
    t.body = { s.body with link := t.body.link } ∧
    ∀ l : ChanId, t.body.link[l] =
      { s.body.link[l] with training := some 1, lane := if s.refclk then some ⟨0#4, .init l⟩ else none }) ∧
  ∀ (s : State) (st : Straps), s.inReset = false → exec (.resetRelease st) s = .next s

/-- While REFCLK is absent no frame is on a lane and nothing under way is completed; a write that was cut off ends when REFCLK
returns, its bytes becoming the request, and a read that was cut off is an unfinished read (R193). A stop of a clock that does
not run, and a return of one that does, change nothing (log 2). -/
def Obligations.ReferenceClockStopsAndReturns : Prop :=
  (∀ s : State, s.refclk = true → ∃ t, exec .refclkStop s = .next t ∧
    t = { s with refclk := false, portA := t.portA, portB := t.portB, body := t.body } ∧
    (∀ p, t.port p = if (s.port p).reading = some .reply
      then { s.port p with reading := none, hold := some s.items.replyHold } else { s.port p with reading := none }) ∧
    t.body = { s.body with link := t.body.link } ∧
    ∀ l : ChanId, t.body.link[l] = { s.body.link[l] with lane := none }) ∧
  (∀ s : State, s.refclk = false → ∃ t, exec .refclkResume s = .next t ∧
    SameOutsidePorts { s with refclk := true } t ∧ ExecutorTakes s t ∧
    ∀ p, t.port p = match (s.port p).writing with
      | some (b :: bs) => { s.port p with writing := none, req := some (b :: bs) }
      | _ => { s.port p with writing := none }) ∧
  (∀ s : State, s.refclk = false → exec .refclkStop s = .next s) ∧
  ∀ s : State, s.refclk = true → exec .refclkResume s = .next s

/-! ### Ports and frames -/

/-- A write transaction (R154, R155). Its START ends a transaction under way on the same bus; `r` is the port after that. The
address is acknowledged when it is the port's and the request slot is empty, and then up to 40 data bytes are; the first of them
loses a reply that the port held. The end of the write makes the bytes received the request. While the part does not run no
address is acknowledged (R150, R193). How a write is cut into commands is the model's choice (log 20), and so is an end of a write
when none is under way or the part does not run, which changes no slot (log 2). -/
def Obligations.WriteTransactionFillsRequestSlot : Prop :=
  (∀ (s : State) (p : PortId) (addr : BitVec 7) (data : List Byte), s.running = true →
    ∃ t, exec (.requestWriteStart p addr data) s = .next t ∧ SameOutsidePorts s t ∧ ExecutorTakes s t ∧
      (∀ q, q ≠ p → t.port q = s.port q) ∧
      let r := (s.port p).endWrite.endRead s.items.replyHold
      ((addr ≠ r.addr ∨ r.req.isSome = true) → t.port p = { r with bus := ⟨some false, [], []⟩ }) ∧
      (addr = r.addr → r.req = none → data = [] →
        t.port p = { r with writing := some [], bus := ⟨some true, [], []⟩ }) ∧
      (addr = r.addr → r.req = none → data ≠ [] → t.port p =
        { r with reply := none, readPos := 0, hold := none, lastLoss := .none, writing := some (data.take 40),
                 bus := ⟨some true, (List.range data.length).map fun i => decide (i < 40), []⟩ })) ∧
  (∀ (s : State) (p : PortId) (addr : BitVec 7) (data : List Byte), s.running = false →
    exec (.requestWriteStart p addr data) s = .next (s.setPort p { s.port p with bus := ⟨some false, [], []⟩ })) ∧
  (∀ (s : State) (p : PortId) (data got : List Byte), s.running = true → (s.port p).writing = some got → got.length ≤ 40 →
    ∃ t, exec (.requestWriteEnd p data) s = .next t ∧ SameOutsidePorts s t ∧ ExecutorTakes s t ∧
      (∀ q, q ≠ p → t.port q = s.port q) ∧
      let acks := (List.range data.length).map fun i => decide (got.length + i < 40)
      (got = [] → data = [] → t.port p = { s.port p with writing := none, bus := ⟨none, [], []⟩ }) ∧
      (got = [] → data ≠ [] → t.port p =
        { s.port p with reply := none, readPos := 0, hold := none, lastLoss := .none, writing := none,
                        req := some (data.take 40), bus := ⟨none, acks, []⟩ }) ∧
      (got ≠ [] → t.port p =
        { s.port p with writing := none, req := some ((got ++ data).take 40), bus := ⟨none, acks, []⟩ })) ∧
  (∀ (s : State) (p : PortId) (data : List Byte), s.running = true → (s.port p).writing = none →
    ∃ t, exec (.requestWriteEnd p data) s = .next t ∧ t = { s with executor := t.executor } ∧ ExecutorTakes s t) ∧
  ∀ (s : State) (p : PortId) (data : List Byte), s.running = false → exec (.requestWriteEnd p data) s = .next s

/-- A read transaction (R156, R157). `r` is the port when the read begins. With a reply in its slot it sends that from its read
position, then 0xFF; the last byte empties the slot, and an end before it restarts the hold timer. With none it sends a NOTREADY
frame made for this read. A read under way may go on in a further command (log 20); with none under way, or while the part does not
run, such a command changes no slot (log 2). -/
def Obligations.ReadTransactionSendsReplyOrNotReady : Prop :=
  (∀ (s : State) (p : PortId) (addr : BitVec 7) (n : Nat) (ends : Bool), s.running = true →
    ∃ t, exec (.i2cRead p (some addr) n ends) s = .next t ∧ SameOutsidePorts s t ∧ ExecutorTakes s t ∧
      (∀ q, q ≠ p → t.port q = s.port q) ∧
      let r := (s.port p).endWrite.endRead s.items.replyHold
      (addr ≠ r.addr → t.port p = { r with bus := ⟨some false, [], []⟩ }) ∧
      (addr = r.addr → r.reply = none →
        let frame := replyFrame ((r.req.getD []).getD 0 0#8) 0#8 .notReady
          [if r.req.isSome then 1#8 else 0#8, match r.lastLoss with | .none => 0#8 | .lapsed => 1#8 | .reset => 2#8]
        t.port p = { r with reading := if ends then none else some (.notReady frame n),
                            bus := ⟨some true, [], (frame ++ List.replicate n 0xFF#8).take n⟩ }) ∧
      ∀ f, addr = r.addr → r.reply = some f →
        let sent := (f.drop r.readPos ++ List.replicate n 0xFF#8).take n
        (f.length ≤ r.readPos + n → t.port p =
          { r with reply := none, readPos := 0, hold := none, reading := if ends then none else some .ones,
                   bus := ⟨some true, [], sent⟩ }) ∧
        (r.readPos + n < f.length → t.port p =
          { r with readPos := r.readPos + n, hold := if ends then some s.items.replyHold else none,
                   reading := if ends then none else some .reply, bus := ⟨some true, [], sent⟩ })) ∧
  (∀ (s : State) (p : PortId) (n : Nat) (ends : Bool), s.running = true →
    ∃ t, exec (.i2cRead p none n ends) s = .next t ∧ SameOutsidePorts s t ∧ ExecutorTakes s t ∧
      (∀ q, q ≠ p → t.port q = s.port q) ∧
      let r := s.port p
      (r.reading = none → t.port p = r) ∧
      (r.reading = some .ones → t.port p =
        { r with reading := if ends then none else some .ones, bus := ⟨none, [], List.replicate n 0xFF#8⟩ }) ∧
      (∀ frame pos, r.reading = some (.notReady frame pos) → t.port p =
        { r with reading := if ends then none else some (.notReady frame (pos + n)),
                 bus := ⟨none, [], (frame.drop pos ++ List.replicate n 0xFF#8).take n⟩ }) ∧
      ∀ f, r.reading = some .reply → r.reply = some f →
        let sent := (f.drop r.readPos ++ List.replicate n 0xFF#8).take n
        (f.length ≤ r.readPos + n → t.port p =
          { r with reply := none, readPos := 0, reading := if ends then none else some .ones, bus := ⟨none, [], sent⟩ }) ∧
        (r.readPos + n < f.length → t.port p =
          { r with readPos := r.readPos + n, hold := if ends then some s.items.replyHold else r.hold,
                   reading := if ends then none else some .reply, bus := ⟨none, [], sent⟩ })) ∧
  (∀ (s : State) (p : PortId) (addr : BitVec 7) (n : Nat) (ends : Bool), s.running = false →
    exec (.i2cRead p (some addr) n ends) s = .next (s.setPort p { s.port p with bus := ⟨some false, [], []⟩ })) ∧
  ∀ (s : State) (p : PortId) (n : Nat) (ends : Bool), s.running = false → exec (.i2cRead p none n ends) s = .next s

/-- A hold timer that has run out empties the reply slot and notes LAPSED (R158). One that has not, or that runs while the part
does not, makes nothing happen (log 2). -/
def Obligations.ReplyHoldExpiryDiscardsReply : Prop :=
  (∀ (s : State) (p : PortId), s.running = true → (s.port p).hold = some 0 →
    exec (.replyHoldExpiry p) s =
      .next (s.setPort p { s.port p with reply := none, readPos := 0, hold := none, lastLoss := .lapsed })) ∧
  ∀ (s : State) (p : PortId), ¬(s.running = true ∧ (s.port p).hold = some 0) → exec (.replyHoldExpiry p) s = .next s

/-- Placing a reply (R159): the reply enters the port's reply slot, its request slot is emptied, its hold timer starts with the
REPLY_HOLD in force, and the executor goes on with the other port's request if there is one. Nothing else changes. A reply frame is
tag, code, status, payload length, payload and CRC (R153). Numbers are sent most significant byte first (R186), and every named
value has the code that R190 and R191 give: its place, from 0, in its list. -/
def Obligations.ReplyPlacedAndExecutorGoesOn : Prop :=
  ∀ (s : State) (p q : PortId) (frame : List Byte), q ≠ p →
    (s.placeReply p frame).port p =
      { s.port p with req := none, reply := some frame, readPos := 0, hold := some s.items.replyHold } ∧
    (s.placeReply p frame).port q = s.port q ∧
    (s.placeReply p frame).executor = (if (s.port q).req.isSome then some q else none) ∧
    SameOutsidePorts s (s.placeReply p frame) ∧
    (∀ tag code st payload, replyFrame tag code st payload =
      sealed ([tag, code, BitVec.ofNat 8 st.code, BitVec.ofNat 8 payload.length] ++ payload)) ∧
    [Status.ok, .notReady, .denied, .badReq, .badArg, .notFound, .stale, .full, .busy, .fixed, .inflight, .excluded, .exists,
      .taken].map Status.code = List.range 14 ∧
    [ChanState.down, .idle, .test, .ready, .service, .resync, .lost, .failed].map ChanState.code = List.range 8 ∧
    [Phase.discover, .poolcheck, .seedinstall, .main, .repairinstall, .verify, .releasing].map Phase.code = List.range 7 ∧
    [Cause.absent, .geometry, .linkLost, .linkError, .stepTimeout, .agent, .bankLimit, .unrepairable, .dirFull, .protocol].map
      Cause.code = List.range 10 ∧
    [LinkState.down, .training, .up].map LinkState.code = List.range 3 ∧
    [EntryState.unresolved, .pending, .fencing, .installing, .refill, .active, .retireWait, .retireFencing, .removing].map
      EntryState.code = List.range' 1 9 ∧
    (∀ x : Entry, (x.live = none → x.stateCode = 0) ∧ ∀ r, x.live = some r → x.stateCode = r.st.code) ∧
    [Origin.seed, .test, .score, .manual].map Origin.code = List.range 4 ∧
    [SpareState.free, .used, .spent].map SpareState.code = List.range 3 ∧
    [SlotState.free, .used, .bad].map SlotState.code = List.range 3 ∧ [Line.hi, .lo].map Line.code = List.range 2 ∧
    [Direction.up, .down].map Direction.code = List.range 2 ∧
    [Background.solid, .checker, .rowstripe, .colstripe].map Background.code = List.range 4 ∧
    [MarchOp.w0, .w1, .r0, .r1].map MarchOp.code = List.range 4 ∧ [Spread.parallel, .serial].map Spread.code = List.range 2 ∧
    (∀ n : Nat, be1 n = [BitVec.ofNat 8 n] ∧ be2 n = [BitVec.ofNat 8 (n / 256), BitVec.ofNat 8 n] ∧
      be3 n = [BitVec.ofNat 8 (n / 65536), BitVec.ofNat 8 (n / 256), BitVec.ofNat 8 n] ∧
      be4 n = [BitVec.ofNat 8 (n / 16777216), BitVec.ofNat 8 (n / 65536), BitVec.ofNat 8 (n / 256), BitVec.ofNat 8 n] ∧
      zeros n = List.replicate n 0#8) ∧
    ∀ b : Bool, yesNo b = [if b then 1#8 else 0#8]

/-- The two checks that come before a request's own (R160). A frame without the form of R152 is refused BADREQ with its tag and
code bytes as received, 0 for each one missing (R153). A request of a class that port B may not use is refused DENIED; port A may
use every class (R163, R164). Each code has the operand length of R190. The executor carries out the request that the frame in the
request slot spells; that this comes as the command of the request's name is the model's choice (log 25), and so is that such a command
changes nothing while the executor is not carrying out a request of that name, or UNPARSED_REQUEST while it has no frame without the
form of R152 (log 2). -/
def Obligations.RequestsRefusedBeforeTheirOwnChecks : Prop :=
  (∀ bs : List Byte, parseRequest bs = none ↔
    ¬(5 ≤ bs.length ∧ bs.drop (bs.length - 2) = crcBytes (bs.take (bs.length - 2)) ∧
      (bs.getD 2 0#8).toNat + 5 = bs.length ∧
      operandLength (bs.getD 1 0#8).toNat = some (bs.length - 5))) ∧
  (∀ (s : State) (p : PortId) (bs : List Byte), s.running = true → s.executor = some p → (s.port p).req = some bs →
    parseRequest bs = none → exec (.unparsedRequest p) s =
      .next (s.placeReply p (replyFrame (bs.getD 0 0#8) (bs.getD 1 0#8) .badReq []))) ∧
  (∀ (s : State) (p : PortId) (tag : Byte) (rq : Request), s.executing p = some (tag, rq) → s.allows p rq = false →
    Refused s p tag rq .denied) ∧
  (∀ code n : Nat, operandLength code = some n ↔ (code, n) ∈
    [(0x01, 0), (0x02, 1), (0x03, 1), (0x04, 3), (0x05, 2), (0x06, 6), (0x07, 4), (0x08, 3), (0x09, 5), (0x0A, 0), (0x0B, 1),
     (0x0C, 2), (0x0D, 11), (0x0E, 5), (0x0F, 3), (0x10, 3), (0x11, 2), (0x12, 2), (0x13, 1), (0x14, 16), (0x15, 5), (0x16, 2),
     (0x17, 4), (0x18, 2), (0x19, 0)]) ∧
  (∀ (s : State) (p : PortId) (tag : Byte) (rq : Request), s.executing p = some (tag, rq) ↔
    s.inReset = false ∧ s.refclk = true ∧ s.executor = some p ∧ ∃ bs, (s.port p).req = some bs ∧ parseRequest bs = some (tag, rq)) ∧
  (∀ (s : State) (p : PortId) (rq : Request), (∀ tag x, s.executing p = some (tag, x) → x.command p ≠ rq.command p) →
    exec (rq.command p) s = .next s) ∧
  (∀ (s : State) (p : PortId), ¬(s.running = true ∧ s.executor = some p ∧ ∃ bs, (s.port p).req = some bs ∧
    parseRequest bs = none) → exec (.unparsedRequest p) s = .next s) ∧
  ∀ (s : State) (rq : Request), s.allows .a rq = true ∧
    s.allows .b rq = (if rq.code.toNat ≤ 0x0C then true else if rq.code.toNat ≤ 0x10 then s.grant.edit
      else if rq.code.toNat ≤ 0x17 then s.grant.control else false)

/-- Every message has the type of R187 and the payload of R189, and a frame of the part carries its type, its sequence number and its
payload whole (R130). Two messages whose numbers fit their fields and whose type and payload agree are one message. The operands of
a request frame are read field by field in the order and with the widths of R190, for each of the 25 requests (R152). -/
def Obligations.FramesReadBackAsWritten : Prop :=
  let rowKey := fun (bank : Nat) (row : Option Nat) => match row with
    | some r => be1 bank ++ [0#8] ++ be3 r
    | none => be1 bank ++ [1#8] ++ zeros 3
  let sends := fun (m : Msg) (type : Byte) (payload : List Byte) => m.type = type ∧ m.payload = payload
  (∀ f : TxFrame, parseLinkFrame f.bytes = some ⟨f.msg.type, f.seq, f.msg.payload⟩ ∧
    (f.msg.type.toNat, f.msg.payload.length) ∈
      [(0x01, 2), (0x02, 0), (0x03, 12), (0x04, 0), (0x05, 8), (0x06, 5), (0x07, 0), (0x08, 6), (0x09, 1), (0x0A, 0),
       (0x0B, 10)]) ∧
  (∀ l, sends (.init l) 0x01#8 (1#8 :: be1 l.val)) ∧ sends .discover 0x02#8 [] ∧ sends .halt 0x04#8 [] ∧
  sends .clearSet 0x07#8 [] ∧ sends .release 0x0A#8 [] ∧ (∀ sr, sends (.lift sr) 0x09#8 [sr]) ∧
  (∀ tok d bg ops k rg, sends (.runStep tok d bg ops k rg) 0x03#8 ([tok] ++ be1 d.code ++ be1 bg.code ++ be1 ops.length ++
    ((ops.map fun o => BitVec.ofNat 8 o.code) ++ List.replicate 6 0xFF#8).take 6 ++ be1 k ++
    be1 (match rg with | .pool => 0 | .main => 1 | .repaired => 2))) ∧
  (∀ bank row x, sends (.install bank row x) 0x05#8 (rowKey bank row ++ match x with
    | .target (.device g i) => be1 0 ++ be1 g ++ be1 i
    | .target (.pool k) => be1 1 ++ be1 k ++ [0#8]
    | .exclude => be1 2 ++ zeros 2)) ∧
  (∀ bank row, sends (.remove bank row) 0x06#8 (rowKey bank row)) ∧
  (∀ sr bank row, sends (.fence sr bank row) 0x08#8 (sr :: rowKey bank row)) ∧
  (∀ bank row st, sends (.rowStatus bank row st) 0x0B#8 (be1 bank ++ be3 row ++ match st with
    | .normal => be1 0 ++ zeros 5
    | .watched n => be1 1 ++ be2 n ++ zeros 3
    | .repairedDevice g i => be1 2 ++ be1 0 ++ be1 g ++ be1 i ++ zeros 2
    | .repairedPool pb r => be1 2 ++ be1 1 ++ be1 pb ++ be3 r
    | .fenced => be1 3 ++ zeros 5
    | .excluded => be1 4 ++ zeros 5)) ∧
  (∀ m n : Msg, m.InRange → n.InRange → m.type = n.type → m.payload = n.payload → m = n) ∧
  (∀ (tag code : Byte) (operands : List Byte), operandLength code.toNat = some operands.length →
    ∃ rq, requestOf code.toNat operands = some rq ∧ rq.code = code ∧
      parseRequest (requestFrame tag code operands) = some (tag, rq)) ∧
  let reads := fun (code : Byte) (operands : List Byte) (rq : Request) =>
    ∀ tag, parseRequest (requestFrame tag code operands) = some (tag, rq)
  reads 0x01#8 [] .getStatus ∧ reads 0x0A#8 [] .readCause ∧ reads 0x19#8 [] .controlReset ∧
  (∀ n, FitsBytes 1 n → reads 0x02#8 (be1 n) (.getChannel n) ∧ reads 0x03#8 (be1 n) (.getLink n) ∧
    reads 0x0B#8 (be1 n) (.readPlan n) ∧ reads 0x13#8 (be1 n) (.release n)) ∧
  (∀ n, FitsBytes 2 n → reads 0x05#8 (be2 n) (.readEntry n) ∧ reads 0x11#8 (be2 n) (.startTest n) ∧
    reads 0x12#8 (be2 n) (.stopTest n) ∧ reads 0x16#8 (be2 n) (.clearAttention n)) ∧
  (∀ mark x, FitsBytes 1 mark → FitsBytes 1 x → reads 0x0C#8 (be1 mark ++ be1 x) (.readConfig ⟨mark, x⟩) ∧
    reads 0x18#8 (be1 mark ++ be1 x) (.grant mark x) ∧
    (∀ n, FitsBytes 1 n → reads 0x04#8 (be1 n ++ be1 mark ++ be1 x) (.getInventory n ⟨mark, x⟩) ∧
      reads 0x08#8 (be1 n ++ be1 mark ++ be1 x) (.readWatch n ⟨mark, x⟩)) ∧
    ∀ n, FitsBytes 2 n → reads 0x07#8 (be2 n ++ be1 mark ++ be1 x) (.nextEntry n ⟨mark, x⟩) ∧
      reads 0x17#8 (be2 n ++ be1 mark ++ be1 x) (.setAttention n mark x)) ∧
  (∀ n g, FitsBytes 2 n → FitsBytes 1 g → reads 0x0F#8 (be2 n ++ be1 g) (.retire n g) ∧
    reads 0x10#8 (be2 n ++ be1 g) (.refilled n g)) ∧
  (∀ n v, FitsBytes 1 n → FitsBytes 4 v → reads 0x15#8 (be1 n ++ be4 v) (.setConfig n v)) ∧
  (∀ n bank row, FitsBytes 1 n → FitsBytes 1 bank → FitsBytes 3 row →
    reads 0x09#8 (be1 n ++ be1 bank ++ be3 row) (.findWatch n bank row) ∧
    reads 0x0E#8 (be1 n ++ be1 bank ++ be3 row) (.addRepair n bank row) ∧
    ∀ scope, FitsBytes 1 scope → let key := be1 n ++ be1 bank ++ be1 scope ++ be3 row
      reads 0x06#8 key (.find ⟨n, bank, scope, row⟩) ∧
      ∀ dt mark t0 t1, FitsBytes 2 dt → FitsBytes 1 mark → FitsBytes 1 t0 → FitsBytes 1 t1 →
        reads 0x0D#8 (key ++ be2 dt ++ be1 mark ++ be1 t0 ++ be1 t1) (.seed ⟨n, bank, scope, row⟩ dt mark t0 t1)) ∧
  ∀ (n mark : Nat) (o : StepOp), FitsBytes 1 n → FitsBytes 1 mark → FitsBytes 1 o.direction → FitsBytes 1 o.background →
    FitsBytes 1 o.mandatory → FitsBytes 1 o.spread → FitsBytes 1 o.count → o.places.length = 6 → (∀ x ∈ o.places, FitsBytes 1 x) →
    FitsBytes 1 o.pause → FitsBytes 2 o.mask →
    reads 0x14#8 (be1 n ++ be1 mark ++ be1 o.direction ++ be1 o.background ++ be1 o.mandatory ++ be1 o.spread ++ be1 o.count ++
      (o.places.map fun x => BitVec.ofNat 8 x) ++ be1 o.pause ++ be2 o.mask) (.writePlan n mark o)

/-- The CRC (R131): the register starts at 0xFFFF, a byte is taken from its most significant bit on, and each bit shifts the
register, with the generator x^16 + x^12 + x^5 + 1 taken away when the bit shifted out differs from it. -/
def Obligations.CrcIsTheOneOfTheManual : Prop :=
  crc16 [] = 0xFFFF#16 ∧ (∀ bs b, crc16 (bs ++ [b]) = crcByte (crc16 bs) b) ∧
  (∀ (r : BitVec 16) (b : Byte), crcByte r b =
    [7, 6, 5, 4, 3, 2, 1, 0].foldl (fun (q : BitVec 16) (i : Nat) =>
      if q.msb != b.getLsbD i then (q <<< 1) ^^^ 0x1021#16 else q <<< 1) r) ∧
  crc16 [0x31#8, 0x32#8, 0x33#8, 0x34#8, 0x35#8, 0x36#8, 0x37#8, 0x38#8, 0x39#8] = 0x29B1#16 ∧ crc16 [0x00#8] = 0xE1F0#16 ∧
  (∀ bs, sealed bs = bs ++ [((crc16 bs) >>> 8).truncate 8, (crc16 bs).truncate 8]) ∧
  (∀ f : TxFrame, f.bytes =
    sealed ([f.msg.type, f.seq.zeroExtend 8, BitVec.ofNat 8 f.msg.payload.length] ++ f.msg.payload)) ∧
  ∀ g, (Inventory.build g).tag = crc16 g.serial

/-! ### Requests of class INSPECT: the state that is answered is `s` itself but for GET_LINK -/

/-- GET_STATUS gives the summary of R170. The width of the protocol version is the model's choice (log 15). -/
def Obligations.GetStatusSummarisesThePart : Prop :=
  ∀ (s : State) (p : PortId) (tag : Byte), s.Asked p tag .getStatus →
    Answers s p tag .getStatus s .ok
      ([0x10#8, 0x40#8] ++ [1#8] ++ be4 s.now.toNat ++ ((List.finRange 12).flatMap fun c => be1 s.body.chan[c].state.code) ++
        be2 ((List.finRange 1024).countP fun e => s.body.dir[e].live.isNone) ++
        be2 ((List.finRange 256).countP fun i => s.body.watch[i].isSome) ++
        be1 (((List.finRange 12).map fun c =>
          if s.body.chan[c].admission.isHeld then (if c.val < 8 then 3 else 1) else 0).sum) ++
        be1 ((List.finRange 12).countP fun c => s.body.chan[c].admission.isWaiting) ++
        be1 (1 + (if s.grant.edit then 2 else 0) + (if s.grant.control then 4 else 0)) ++
        yesNo (!s.inReset && (List.finRange 10).any fun n =>
          s.body.att[n].pending && s.body.att[n].enable && s.body.att[n].line == .hi) ++
        yesNo (!s.inReset && (List.finRange 10).any fun n =>
          s.body.att[n].pending && s.body.att[n].enable && s.body.att[n].line == .lo))

/-- GET_CHANNEL gives the channel's record (R89); a channel above 11 is refused BADARG. The widths of the REPAIRED count and
of the step's token are the model's choice (log 15). -/
def Obligations.GetChannelGivesTheRecord : Prop :=
  ∀ (s : State) (p : PortId) (tag : Byte) (n : Nat), s.Asked p tag (.getChannel n) →
    (11 < n → Refused s p tag (.getChannel n) .badArg) ∧
    ∀ c : ChanId, c.val = n →
      let ch := s.body.chan[c]
      Answers s p tag (.getChannel n) s .ok
        (be1 (if n < 8 then 0 else 1) ++ be1 ch.state.code ++
          (match ch.phase with | none => zeros 2 | some x => 1#8 :: be1 x.code) ++
          (match ch.cause with | none => zeros 2 | some x => 1#8 :: be1 x.code) ++
          (match ch.planPos with | none => zeros 2 | some x => 1#8 :: be1 x.val) ++
          (match ch.step with
            | none => zeros 4
            | some r => 1#8 :: ((match r.kind with
              | .poolcheck => be1 0 ++ be1 0
              | .plan k => be1 1 ++ be1 k.val
              | .verify k => be1 2 ++ be1 k) ++ [r.token])) ++
          be1 (match ch.admission with | .none => 0 | .waiting _ => 1 | .held _ => 2) ++ be1 ch.verifyRound ++
          (if ch.state = .test then 1#8 :: be4 (s.now - ch.runStart.getD s.now).toNat else zeros 5) ++
          be2 ch.repaired.length ++ be1 ch.skipped ++ be2 ch.repairs ++ yesNo ch.releaseOut ++ yesNo s.body.inv[c].isSome)

/-- GET_LINK gives the link's record and clears its GAP flag, and nothing else changes (R147). The widths of the two sequence numbers,
of the fence serial and of the HELLO version are the model's choice (log 15), and that the GAP byte is 1 for set and 0 for clear, a
yes or no, is its reading (log 31). -/
def Obligations.GetLinkReportsAndClearsGap : Prop :=
  ∀ (s : State) (p : PortId) (tag : Byte) (n : Nat), s.Asked p tag (.getLink n) →
    (11 < n → Refused s p tag (.getLink n) .badArg) ∧
    ∀ l : ChanId, l.val = n →
      let k := s.body.link[l]
      ∃ t, Answers s p tag (.getLink n) t .ok
          (be1 k.state.code ++ be1 k.nextTx.toNat ++ be1 k.expected.toNat ++ be1 k.sendq.length ++ be1 k.inflight.length ++
            [k.fenceSerial] ++ yesNo k.gap ++ (match k.lastHello with | none => zeros 2 | some v => [1#8, v]) ++
            be2 k.counters.crcDiscards ++ be2 k.counters.overruns ++ be2 k.counters.gaps ++ be2 k.counters.malformed ++
            be2 k.counters.ackTimeouts ++ be2 k.counters.sendOverflows ++ be2 k.counters.lossesOfSignal ++
            be2 k.counters.timesUp) ∧
        t = { s with body := { s.body with link := t.body.link } } ∧ t.body.link[l] = { k with gap := false } ∧
        ∀ m : ChanId, m ≠ l → t.body.link[m] = s.body.link[m]

/-- GET_INVENTORY gives a channel's inventory, whole or for a bank or a pool slot (R34). The widths of its counts and the places of its
fields are the model's choice (log 15), and so is BADARG before NOTFOUND for a selector outside its range (log 27). That the padding
byte of an absent selector is not read is its reading (log 14). An excluded bank is one with a non-FREE whole-bank entry (R3); the FREE count of a channel with no inventory is 0. -/
def Obligations.GetInventoryGivesTheSelection : Prop :=
  (∀ (s : State) (p : PortId) (tag : Byte) (n : Nat) (m : MarkOp), s.Asked p tag (.getInventory n m) →
    let rq := Request.getInventory n m
    let inside := m.mark = 0 ∨ (m.mark = 1 ∧ m.value ≤ 31) ∨ (m.mark = 2 ∧ m.value ≤ 127)
    (11 < n ∨ ¬inside → Refused s p tag rq .badArg) ∧
    ∀ c : ChanId, c.val = n → inside →
      (s.body.inv[c] = none → Refused s p tag rq .notFound) ∧
      ∀ v, s.body.inv[c] = some v →
        (m.mark = 0 → Answers s p tag rq s .ok
          (be1 v.geo.banks ++ be4 v.geo.rowsPerBank ++ be1 v.geo.banksPerGroup ++ be1 v.geo.sparesPerGroup ++
            be1 v.geo.poolBank ++ be1 v.geo.poolRows ++ be2 v.tag.toNat ++ be1 (v.spares.flatten.count .free) ++
            be1 (v.spares.flatten.count .used) ++ be1 (v.spares.flatten.count .spent) ++ be1 (v.slots.count .free) ++
            be1 (v.slots.count .used) ++ be1 (v.slots.count .bad) ++
            (match v.slots.findIdx? (· == .free) with | none => zeros 2 | some i => 1#8 :: be1 i) ++ be1 v.exclusions)) ∧
        (m.mark = 1 → v.geo.banks ≤ m.value → Refused s p tag rq .badArg) ∧
        (m.mark = 1 → m.value < v.geo.banks → Answers s p tag rq s .ok
          (be1 (m.value / v.geo.banksPerGroup) ++
            (((v.spares[m.value / v.geo.banksPerGroup]?).getD []).flatMap fun x => be1 x.code) ++
            be2 ((v.tallies[m.value]?).getD 0) ++ yesNo (s.body.excluded c m.value) ++
            yesNo (m.value == v.geo.poolBank))) ∧
        (m.mark = 2 → v.slots.length ≤ m.value → Refused s p tag rq .badArg) ∧
        ∀ st, m.mark = 2 → v.slots[m.value]? = some st → Answers s p tag rq s .ok
          (be1 st.code ++ be3 (v.geo.rowsPerBank - v.geo.poolRows + m.value) ++
            (match if st = .used then
                s.body.findEntry fun r => r.key.chan == c && r.repl == some (.target (.pool m.value)) else none with
              | none => zeros 3
              | some e => 1#8 :: be2 e.val))) ∧
  (∀ (b : Body) (d : ChanId) (bank : Nat), b.excluded d bank = true ↔ BankExcluded b d bank) ∧
  (∀ (b : Body) (f : Live → Bool), (b.findEntry f = none ↔ ∀ (e : EntryNo) (r : Live), b.dir[e].live = some r → f r = false) ∧
    ∀ e : EntryNo, b.findEntry f = some e ↔ (∃ r, b.dir[e].live = some r ∧ f r = true) ∧
      ∀ (d : EntryNo) (q : Live), d < e → b.dir[d].live = some q → f q = false) ∧
  ∀ (b : Body) (d : ChanId), b.freeSlots d = match b.inv[d] with
    | none => 0
    | some v => v.slots.count .free

/-- READ_ENTRY gives an entry's 20 bytes (R191), FREE or not; NEXT_ENTRY gives the lowest-numbered non-FREE entry at or above its
start that passes its filter (R24). That the padding byte of an absent filter is not read is the model's reading (log 14). -/
def Obligations.ReadEntryAndNextEntry : Prop :=
  (∀ (s : State) (p : PortId) (tag : Byte) (n : Nat), s.Asked p tag (.readEntry n) →
    (1023 < n → Refused s p tag (.readEntry n) .badArg) ∧
    ∀ e : EntryNo, e.val = n →
      (s.body.dir[e].live = none →
        Answers s p tag (.readEntry n) s .ok (be2 n ++ [s.body.dir[e].gen] ++ List.replicate 17 0#8)) ∧
      ∀ r, s.body.dir[e].live = some r → ∃ payload, Answers s p tag (.readEntry n) s .ok payload ∧ payload.length = 20 ∧
        payload.take 2 = be2 n ∧ payload[2]? = some s.body.dir[e].gen ∧ payload[3]? = some (BitVec.ofNat 8 r.st.code) ∧
        payload[4]? = some (BitVec.ofNat 8 (1 + (if r.key.row = none then 0 else 2) + (if r.repl = none then 0 else 4) +
          (if r.repl = none ∨ r.repl = some .exclude then 0 else 8) +
          (if r.st = .unresolved ∧ r.requested ≠ none then 16 else 0))) ∧
        (payload.drop 5).take 2 = be1 r.key.chan.val ++ be1 r.key.bank ∧ (payload.drop 7).take 3 = be3 (r.key.row.getD 0) ∧
        (payload.drop 10).take 3 = (match r.repl with
          | none => zeros 3
          | some (.target (.device g i)) => be1 0 ++ be1 g ++ be1 i
          | some (.target (.pool k)) => be1 1 ++ be1 k ++ be1 0
          | some .exclude => be1 2 ++ zeros 2) ∧
        (payload.drop 13).take 3 = (match r.st, r.requested with
          | .unresolved, some (.device g i) => be1 0 ++ be1 g ++ be1 i
          | .unresolved, some (.pool k) => be1 1 ++ be1 k ++ be1 0
          | _, _ => zeros 3) ∧
        payload.drop 16 = be1 r.origin.code ++ be2 r.tag.toNat ++ be1 r.round) ∧
  ∀ (s : State) (p : PortId) (tag : Byte) (n : Nat) (m : MarkOp), s.Asked p tag (.nextEntry n m) →
    let rq := Request.nextEntry n m
    let inside := m.mark = 0 ∨ (m.mark = 1 ∧ m.value ≤ 11)
    let passes := fun (e : EntryNo) (r : Live) =>
      s.body.dir[e].live = some r ∧ n ≤ e.val ∧ (m.mark = 1 → r.key.chan.val = m.value)
    (1023 < n ∨ ¬inside → Refused s p tag rq .badArg) ∧
    (n ≤ 1023 → inside →
      ((∀ e r, ¬passes e r) → Refused s p tag rq .notFound) ∧
      ∀ e r, passes e r → (∀ d q, passes d q → e ≤ d) → Answers s p tag rq s .ok
        (be2 e.val ++ (be1 r.key.chan.val ++ be1 r.key.bank ++ match r.key.row with
            | some row => be1 0 ++ be3 row
            | none => be1 1 ++ zeros 3) ++ be1 r.st.code ++ [s.body.dir[e].gen]))

/-- FIND gives the non-FREE entry that has the key (R23). That the row bytes of a whole-bank key are not read is the model's reading
(log 14). -/
def Obligations.FindGivesTheEntryOfTheKey : Prop :=
  ∀ (s : State) (p : PortId) (tag : Byte) (o : KeyOp), s.Asked p tag (.find o) →
    ((∀ k, ¬KeyValid s.body o k) → Refused s p tag (.find o) .badArg) ∧
    ∀ k, KeyValid s.body o k →
      ((∀ (e : EntryNo) (r : Live), s.body.dir[e].live = some r → r.key ≠ k) → Refused s p tag (.find o) .notFound) ∧
      ∀ (e : EntryNo) (r : Live), s.body.dir[e].live = some r → r.key = k →
        (∀ (d : EntryNo) (q : Live), s.body.dir[d].live = some q → q.key = k → d = e) →
        Answers s p tag (.find o) s .ok (be2 e.val ++ be1 r.st.code ++ [s.body.dir[e].gen])

/-- READ_WATCH gives the lowest-indexed record in use at or above its start that passes its filter, and the number of records in
use (R60); FIND_WATCH gives the record of a row (R61). The width of the record's index is the model's choice (log 15), and that the
padding byte of an absent filter is not read is its reading (log 14). -/
def Obligations.ReadWatchAndFindWatch : Prop :=
  (∀ (s : State) (p : PortId) (tag : Byte) (n : Nat) (m : MarkOp), s.Asked p tag (.readWatch n m) →
    let rq := Request.readWatch n m
    let inside := m.mark = 0 ∨ (m.mark = 1 ∧ m.value ≤ 11)
    let used := be2 ((List.finRange 256).countP fun i => s.body.watch[i].isSome)
    let passes := fun (i : WatchNo) (w : Watch) =>
      s.body.watch[i] = some w ∧ n ≤ i.val ∧ (m.mark = 1 → w.chan.val = m.value)
    (255 < n ∨ ¬inside → Refused s p tag rq .badArg) ∧
    (n ≤ 255 → inside →
      ((∀ i w, ¬passes i w) → Answers s p tag rq s .notFound used) ∧
      ∀ i w, passes i w → (∀ j v, passes j v → i ≤ j) → Answers s p tag rq s .ok
        (be1 i.val ++ (be1 w.chan.val ++ be1 w.bank ++ [0#8] ++ be3 w.row) ++ be2 w.score ++ be1 w.correctable ++
          yesNo w.ueSeen ++ used))) ∧
  ∀ (s : State) (p : PortId) (tag : Byte) (n bank row : Nat), s.Asked p tag (.findWatch n bank row) →
    let rq := Request.findWatch n bank row
    let holds := fun (i : WatchNo) (w : Watch) => s.body.watch[i] = some w ∧ w.chan.val = n ∧ w.bank = bank ∧ w.row = row
    (11 < n ∨ 31 < bank ∨ 131071 < row → Refused s p tag rq .badArg) ∧
    (n ≤ 11 → bank ≤ 31 → row ≤ 131071 →
      ((∀ i w, ¬holds i w) → Refused s p tag rq .notFound) ∧
      ∀ i w, holds i w → (∀ j v, holds j v → j = i) → Answers s p tag rq s .ok
        (be1 i.val ++ be2 w.score ++ be1 w.correctable ++ yesNo w.ueSeen))

/-- READ_CAUSE names the lowest-numbered condition that is pending and enabled, with its value and MORE, and the masks (R181). For
a level condition they come from the lowest-numbered channel that meets it, and for an edge condition from its record: channel and
cause; key; channel; channel, skipped count and repair count; each zero-filled to six bytes (R190). That the cause, its value and
MORE each take a mark byte, and the place of the line selects, is the model's choice (log 15). -/
def Obligations.ReadCauseNamesTheMostUrgent : Prop :=
  ∀ (s : State) (p : PortId) (tag : Byte), s.Asked p tag .readCause →
    let b := s.body
    let tail := be2 (((List.finRange 10).map fun n => if b.att[n].pending then 2 ^ n.val else 0).sum) ++
      be2 (((List.finRange 10).map fun n => if b.att[n].enable then 2 ^ n.val else 0).sum) ++
      ((List.finRange 10).flatMap fun n => be1 b.att[n].line.code)
    let shown := fun n : Fin 10 => b.att[n].pending = true ∧ b.att[n].enable = true
    let pastBudget := fun c : ChanId => b.chan[c].state = .test ∧ s.items.bootBudget ≤ b.elapsed s.env c
    let lowPool := fun c : ChanId => b.chan[c].state = .service ∧ b.freeSlots c < s.items.poolLowMark
    ((∀ n, ¬shown n) → Answers s p tag .readCause s .ok (zeros 2 ++ zeros 7 ++ zeros 2 ++ tail)) ∧
    ∀ n, shown n → (∀ m, shown m → n ≤ m) →
      (n.val ≠ 5 → n.val ≠ 6 → Answers s p tag .readCause s .ok
        ([1#8, BitVec.ofNat 8 n.val] ++ (match b.att[n].value with
            | none => zeros 7
            | some (.failed c cause) => [1#8] ++ be1 c.val ++ be1 cause.code ++ zeros 4
            | some (.key k) => [1#8] ++ be1 k.chan.val ++ be1 k.bank ++ (match k.row with
              | some row => be1 0 ++ be3 row
              | none => be1 1 ++ zeros 3)
            | some (.channel c) => [1#8] ++ be1 c.val ++ zeros 5
            | some (.testDone c skipped repairs) => [1#8] ++ be1 c.val ++ be1 skipped ++ be2 repairs ++ zeros 2
            | some (.budget c ms) => [1#8] ++ be1 c.val ++ be4 ms ++ zeros 1
            | some (.poolLow c free) => [1#8] ++ be1 c.val ++ be1 free ++ zeros 4) ++
          [1#8, if b.att[n].more then 1#8 else 0#8] ++ tail)) ∧
      (n.val = 5 → ∀ c, pastBudget c → (∀ d, pastBudget d → c ≤ d) → Answers s p tag .readCause s .ok
        ([1#8, 5#8] ++ [1#8] ++ be1 c.val ++ be4 (b.elapsed s.env c) ++ [0#8] ++
          [1#8, if ∃ d, pastBudget d ∧ d ≠ c then 1#8 else 0#8] ++ tail)) ∧
      (n.val = 6 → ∀ c, lowPool c → (∀ d, lowPool d → c ≤ d) → Answers s p tag .readCause s .ok
        ([1#8, 6#8] ++ [1#8] ++ be1 c.val ++ be1 (b.freeSlots c) ++ zeros 4 ++
          [1#8, if ∃ d, lowPool d ∧ d ≠ c then 1#8 else 0#8] ++ tail))

/-- READ_PLAN gives a slot as it stands, in the coding of WRITE_PLAN, and changes nothing, also while a channel is in TEST
(R96). That unused operation places and the step bytes of an EMPTY slot are 0 is the model's choice (log 15). -/
def Obligations.ReadPlanGivesTheSlot : Prop :=
  ∀ (s : State) (p : PortId) (tag : Byte) (n : Nat), s.Asked p tag (.readPlan n) →
    (15 < n → Refused s p tag (.readPlan n) .badArg) ∧
    ∀ i : SlotNo, i.val = n →
      (s.plan[i] = none → Answers s p tag (.readPlan n) s .ok (1#8 :: zeros 14)) ∧
      ∀ x, s.plan[i] = some x → Answers s p tag (.readPlan n) s .ok
        ([0#8] ++ be1 x.direction.code ++ be1 x.background.code ++ yesNo x.mandatory ++ be1 x.spread.code ++
          be1 x.ops.length ++ ((x.ops.map fun o => BitVec.ofNat 8 o.code) ++ zeros 6).take 6 ++ be1 x.pause ++
          be2 x.mask.toNat)

/-- READ_CONFIG gives every item's value, or one item's value, range and default, and changes nothing, also while a channel is in
TEST (R169). AUTO_RELEASE and DEVICE_SPARES_USE take one byte (R190); that every other value takes four is the model's choice
(log 16), and that the padding byte of an absent item is not read is its reading (log 14). -/
def Obligations.ReadConfigGivesTheItems : Prop :=
  ∀ (s : State) (p : PortId) (tag : Byte) (m : MarkOp), s.Asked p tag (.readConfig m) →
    let i := s.items
    let table : List (Nat × Nat × Nat × Nat) :=
      [(i.bootBudget, 100, 600000, 30000), (i.powerCeiling, 3, 28, 12), (i.repairThreshold, 16, 1023, 256),
       (i.decayPeriod, 1, 3600, 60), (i.bankFailLimit, 1, 64, 16), (i.verifyRounds, 1, 3, 3), (i.ackTimeout, 1, 1000, 50),
       (i.stepTimeout, 1, 600, 60), (i.fenceTimeout, 10, 60000, 2000), (i.discoverWait, 10, 10000, 500),
       (i.replyHold, 10, 1000, 100), (i.poolLowMark, 0, 128, 8), (i.autoRelease, 0, 1, 1), (i.deviceSparesUse, 0, 1, 1)]
    (m.mark = 0 → Answers s p tag (.readConfig m) s .ok
      (((table.take 12).flatMap fun x => be4 x.1) ++ be1 i.autoRelease ++ be1 i.deviceSparesUse)) ∧
    (∀ x, m.mark = 1 → table[m.value]? = some x →
      (m.value < 12 → Answers s p tag (.readConfig m) s .ok (be4 x.1 ++ be4 x.2.1 ++ be4 x.2.2.1 ++ be4 x.2.2.2)) ∧
      (12 ≤ m.value → Answers s p tag (.readConfig m) s .ok (be1 x.1 ++ be1 x.2.1 ++ be1 x.2.2.1 ++ be1 x.2.2.2))) ∧
    (1 < m.mark ∨ (m.mark = 1 ∧ 13 < m.value) → Refused s p tag (.readConfig m) .badArg)

/-! ### Requests of class EDIT -/

/-- SEED makes its checks in the order of R7 and then makes its entry in the lowest FREE place: PENDING with the requested target
or as a whole-bank exclusion on a channel with an inventory, UNRESOLVED otherwise. In READY a PENDING entry of kind POOL or
EXCLUDE is sent at once (R10). That the row bytes of a whole-bank key and the padding of an absent target are not read is the model's
reading (log 14), and so is that a second SEED of one whole-bank key is refused EXCLUDED, where R156 and R173 say EXISTS (log 30). -/
def Obligations.SeedChecksAndMakesEntry : Prop :=
  ∀ (s : State) (p : PortId) (tag : Byte) (o : KeyOp) (tg mark t0 t1 : Nat),
    let rq := Request.seed o tg mark t0 t1
    let b := s.body
    s.Asked p tag rq →
    ((∀ k t, KeyValid b o k → ¬SeedValid b k tg mark t0 t1 t) → Refused s p tag rq .badArg) ∧
    ∀ k t, KeyValid b o k → SeedValid b k tg mark t0 t1 t →
      let made := fun (b' : Body) => ∃ u, u = { s with body := b'.finish s.env } ∧
        ∀ e, LowestFree b e → Answers s p tag rq u .ok (be2 e.val ++ be1 u.body.dir[e].stateCode ++ [u.body.dir[e].gen])
      Checked (Refused s p tag rq)
        (∀ e, LowestFree b e →
          let gen := b.dir[e].gen
          let pending := fun x vt => Live.mk .pending k (some x) none .seed vt 0
          let write := fun g x => b.dir.set e ⟨g, some x⟩
          (b.inv[k.chan] = none → made
            { b with dir := write (gen + 1#8) ⟨.unresolved, k, none, t, .seed, BitVec.ofNat 16 tg, 0⟩ }) ∧
          ∀ v, b.inv[k.chan] = some v →
            let sent := fun x => b.chan[k.chan].state = .ready ∧ ∀ g i, x ≠ Replacement.target (.device g i)
            let result := fun x (w : Inventory) =>
              let b1 := { b with inv := b.inv.set k.chan (some w), dir := write (gen + 1#8) (pending x v.tag) }
              (¬sent x → made b1) ∧
              (sent x → made (Body.offer { b1 with dir := write (gen + 2#8) { pending x v.tag with st := .installing } } k.chan
                (.install k.bank k.row x) (.directory e (gen + 2#8) false)))
            (∀ x, t = some x → result (.target x) (v.take (.target x))) ∧
            (t = none → k.row = none → result .exclude v) ∧
            (t = none → k.row ≠ none → made
              { b with dir := write (gen + 1#8) ⟨.unresolved, k, none, none, .seed, v.tag, 0⟩ }))
        [(b.chan[k.chan].state ∉ [.down, .idle, .ready, .failed], .busy), (BankExcluded b k.chan k.bank, .excluded),
         (∃ (e : EntryNo) (r : Live), b.dir[e].live = some r ∧
            (r.key = k ∨ (k.row = none ∧ r.key.chan = k.chan ∧ r.key.bank = k.bank)), .exists),
         (∃ v x, b.inv[k.chan] = some v ∧ t = some x ∧ ¬(match x with
            | .device g i => v.spare g i = some .free
            | .pool n => v.slots[n]? = some .free), .taken), (∀ e, ¬LowestFree b e, .full)]

/-- ADD_REPAIR makes its checks in the order of R115, chooses a target and makes a PENDING entry of origin MANUAL. In IDLE it
waits. In READY, and on a TABLE channel in SERVICE, its INSTALL is sent at once. On a BUFFER channel in SERVICE it joins the tail
of the fence queue, whose head is then served if it can be (R109). The reply gives entry number, state, generation, kind and target;
the mark byte before the target is the model's choice (log 15). -/
def Obligations.AddRepairChecksAndMakesEntry : Prop :=
  ∀ (s : State) (p : PortId) (tag : Byte) (n bank row : Nat),
    let rq := Request.addRepair n bank row
    let b := s.body
    s.Asked p tag rq →
    ((∀ k, ¬KeyValid b ⟨n, bank, 0, row⟩ k) → Refused s p tag rq .badArg) ∧
    ∀ k, KeyValid b ⟨n, bank, 0, row⟩ k →
      let st := b.chan[k.chan].state
      Checked (Refused s p tag rq)
        (∀ e x, LowestFree b e → b.choose s.env k.chan k.bank = some x →
          let gen := b.dir[e].gen
          let entry := fun q => Live.mk q k (some x) none .manual ((b.inv[k.chan].map (·.tag)).getD 0#16) 0
          let b1 := { b with inv := b.inv.set k.chan (b.inv[k.chan].map (·.take x)),
                             dir := b.dir.set e ⟨gen + 1#8, some (entry .pending)⟩ }
          let made := fun (b' : Body) => ∃ u, u = { s with body := b'.finish s.env } ∧
            Answers s p tag rq u .ok (be2 e.val ++ be1 u.body.dir[e].stateCode ++ [u.body.dir[e].gen] ++ match x with
              | .target (.device g i) => be1 0 ++ [1#8] ++ be1 g ++ be1 i
              | .target (.pool n) => be1 1 ++ [1#8] ++ be1 n ++ [0#8]
              | .exclude => be1 2 ++ zeros 3)
          (st = .idle → made b1) ∧
          (st = .ready ∨ (st = .service ∧ 8 ≤ k.chan.val) → made (Body.offer
            { b1 with dir := b.dir.set e ⟨gen + 2#8, some (entry .installing)⟩ } k.chan (.install k.bank k.row x)
            (.directory e (gen + 2#8) false))) ∧
          ∀ f : Fin 8, st = .service → f.val = k.chan.val → made
            (Body.serveHead s.env { b1 with fence := b.fence.set f { b.fence[f] with queue := b.fence[f].queue ++ [e] } } k.chan))
        [(st ∉ [.service, .idle, .ready] ∨ b.inv[k.chan] = none, .busy), (BankExcluded b k.chan k.bank, .excluded),
         (∃ (e : EntryNo) (r : Live), b.dir[e].live = some r ∧ r.key = k, .exists),
         (st = .service ∧ ∃ f : Fin 8, f.val = k.chan.val ∧ 32 ≤ b.fence[f].queue.length, .full),
         (∀ e, ¬LowestFree b e, .full), (b.choose s.env k.chan k.bank = none, .full)]

/-- RETIRE makes its checks in the order of R19. An UNRESOLVED or PENDING entry is freed at once, which may end an install phase
(R72). An ACTIVE or REFILL entry joins the fence queue as RETIRE_WAIT (BUFFER in SERVICE), is sent REMOVE (TABLE in SERVICE, or
READY), or is freed (IDLE, DOWN, LOST, FAILED).
That a DEVICE entry in RESYNC is refused FIXED, where R124 and R125 say BUSY, is the model's reading (log 28). -/
def Obligations.RetireChecksAndRemoves : Prop :=
  ∀ (s : State) (p : PortId) (tag : Byte) (n gen : Nat),
    let rq := Request.retire n gen
    let b := s.body
    s.Asked p tag rq →
    (1023 < n → Refused s p tag rq .badArg) ∧
    ∀ e : EntryNo, e.val = n →
      (b.dir[e].gen.toNat ≠ gen → Refused s p tag rq .stale) ∧
      (b.dir[e].gen.toNat = gen → b.dir[e].live = none → Refused s p tag rq .notFound) ∧
      ∀ r, b.dir[e].gen.toNat = gen → b.dir[e].live = some r →
        let c := r.key.chan
        let st := b.chan[c].state
        let inForce := r.st = .active ∨ r.st = .refill
        let made := fun (b' : Body) => ∃ u, u = { s with body := b'.finish s.env } ∧
          Answers s p tag rq u .ok (be1 u.body.dir[e].stateCode ++ [u.body.dir[e].gen])
        Checked (Refused s p tag rq)
          (((r.st = .unresolved ∨ r.st = .pending) → made ((b.freeEntry e).checkInstallPhase s.env c)) ∧
            (inForce →
              (∀ f : Fin 8, st = .service → f.val = c.val → made (Body.serveHead s.env
                { b with dir := b.dir.set e ⟨b.dir[e].gen + 1#8, some { r with st := .retireWait }⟩,
                         fence := b.fence.set f { b.fence[f] with queue := b.fence[f].queue ++ [e] } } c)) ∧
              (st = .ready ∨ (st = .service ∧ 8 ≤ c.val) → made (Body.offer
                { b with dir := b.dir.set e ⟨b.dir[e].gen + 1#8, some { r with st := .removing }⟩ } c
                (.remove r.key.bank r.key.row) (.directory e (b.dir[e].gen + 1#8) false))) ∧
              (st ∈ [.idle, .down, .lost, .failed] → made (b.freeEntry e))))
          [(r.st ∈ [.fencing, .installing, .retireWait, .retireFencing, .removing], .inflight),
           (inForce ∧ (∃ g i, r.repl = some (.target (.device g i))) ∧ st ∈ [.ready, .service, .test, .resync], .fixed),
           (inForce ∧ st ∈ [.test, .resync], .busy),
           (inForce ∧ st = .service ∧ ∃ f : Fin 8, f.val = c.val ∧ 32 ≤ b.fence[f].queue.length, .full)]

/-- REFILLED makes a REFILL entry ACTIVE, frees the watch record of its key, and raises REPAIR_DONE when the channel is in
SERVICE (R20, R13). -/
def Obligations.RefilledMakesEntryActive : Prop :=
  ∀ (s : State) (p : PortId) (tag : Byte) (n gen : Nat),
    let rq := Request.refilled n gen
    let b := s.body
    s.Asked p tag rq →
    (1023 < n → Refused s p tag rq .badArg) ∧
    ∀ e : EntryNo, e.val = n →
      (b.dir[e].gen.toNat ≠ gen → Refused s p tag rq .stale) ∧
      (b.dir[e].gen.toNat = gen → b.dir[e].live = none → Refused s p tag rq .notFound) ∧
      ∀ r, b.dir[e].gen.toNat = gen → b.dir[e].live = some r →
        (r.st ≠ .refill → Refused s p tag rq .badArg) ∧
        (r.st = .refill → NoOverflow b → ∃ u, SameOutsideBody s u ∧
          Answers s p tag rq u .ok ([6#8, b.dir[e].gen + 1#8]) ∧
          u.body = { b with dir := b.dir.set e ⟨b.dir[e].gen + 1#8, some { r with st := .active }⟩,
                            watch := u.body.watch, att := u.body.att } ∧
          (∀ (i : WatchNo), u.body.watch[i] = match b.watch[i] with
            | some w => if w.chan = r.key.chan ∧ w.bank = r.key.bank ∧ some w.row = r.key.row then none else some w
            | none => none) ∧
          AttentionBut (if b.chan[r.key.chan].state = .service then [9] else []) s.env b u.body ∧
          (b.chan[r.key.chan].state = .service → u.body.att[(9 : Fin 10)] = b.att[(9 : Fin 10)].occur (.key r.key)))

/-! ### Requests of class CONTROL -/

/-- START_TEST refuses an empty mask or one that names a channel above 11, and a mask with a channel in TEST, SERVICE, RESYNC or
LOST (R65). Otherwise every channel named enters TEST/DISCOVER with its record set as R66 gives: settled, its counts 0, its
lists empty, its run start now. With its link UP, DISCOVER is sent; otherwise the link wait starts. Channels outside the mask
are as before. The note of every RELEASE of the channel, queued or in flight, is marked abandoned, and the rest of those frames is
as before: the mark is the model's choice (log 19). -/
def Obligations.StartTestStartsNamedChannels : Prop :=
  ∀ (s : State) (p : PortId) (tag : Byte) (mask : Nat),
    let rq := Request.startTest mask
    let b := s.body
    s.Asked p tag rq →
    (mask = 0 ∨ 4096 ≤ mask → Refused s p tag rq .badArg) ∧
    (0 < mask → mask < 4096 →
      ((∃ c, Names mask c ∧ b.chan[c].state ∈ [.test, .service, .resync, .lost]) → Refused s p tag rq .busy) ∧
      ((∀ c, Names mask c → b.chan[c].state ∉ [.test, .service, .resync, .lost]) → NoOverflow b →
        (∀ c, Names mask c → b.link[c].sendq.length < 176) →
        ∃ u b1, SameOutsideBody s u ∧ Answers s p tag rq u .ok (be2 mask) ∧ Settled (Names mask) b b1 ∧
          u.body = { b1 with inv := u.body.inv, chan := u.body.chan, link := u.body.link, att := u.body.att } ∧
          AttentionBut [] s.env b u.body ∧
          (∀ c : ChanId, ¬Names mask c →
            u.body.inv[c] = b.inv[c] ∧ u.body.chan[c] = b.chan[c] ∧ u.body.link[c] = b.link[c]) ∧
          ∀ c : ChanId, Names mask c →
            u.body.inv[c] = b1.inv[c].map (fun v => { v with tallies := v.tallies.map fun _ => 0 }) ∧
            u.body.chan[c] =
              { state := .test, phase := some .discover, cause := none, runStart := some s.now, planPos := none, step := none,
                admission := .none, verifyRound := 0, roundFailed := false, repaired := [], skipped := 0, repairs := 0,
                releaseOut := false, nextToken := b.chan[c].nextToken, installPos := none, walkPos := none, awaited := none,
                linkWait := if b.link[c].state = .up then none else some s.items.discoverWait
                geomWait := if b.link[c].state = .up then some s.items.ackTimeout else none
                stepTimer := none } ∧
            let marked := fun (n : Note) => match n with
              | .release closes _ => .release closes true
              | x => x
            u.body.link[c] =
              { b.link[c] with
                sendq := (b.link[c].sendq.map fun q => { q with note := marked q.note }) ++
                  if b.link[c].state = .up then [⟨.discover, .none⟩] else []
                inflight := b.link[c].inflight.map fun f => { f with note := marked f.note } }))

/-- STOP_TEST stops the channels of its mask that are in TEST and touches no other (R84). Each is settled and enters IDLE, or DOWN
when its link is not UP; HALT is sent when it is UP. Units that a stopped channel held return to the arbiter, which scans. The
reply names the channels stopped. The note of every RELEASE queued or in flight is marked abandoned, which is the model's choice
(log 19), and the counts and lists of the run are kept, which is its reading (log 18). -/
def Obligations.StopTestStopsRunningChannels : Prop :=
  ∀ (s : State) (p : PortId) (tag : Byte) (mask : Nat),
    let rq := Request.stopTest mask
    let b := s.body
    let stops := fun c : ChanId => Names mask c ∧ b.chan[c].state = .test
    s.Asked p tag rq →
    (mask = 0 ∨ 4096 ≤ mask → Refused s p tag rq .badArg) ∧
    (0 < mask → mask < 4096 → NoOverflow b → (∀ c, stops c → b.link[c].sendq.length < 176) →
      ∃ b2 m, Stopped stops b b2 ∧ (∀ c : ChanId, Names m c ↔ stops c) ∧ m < 4096 ∧
        ((∀ c, stops c → b.chan[c].admission.isHeld = false) →
          Answers s p tag rq { s with body := b2.finish s.env } .ok (be2 m)) ∧
        ((∃ c, stops c ∧ b.chan[c].admission.isHeld = true) →
          Answers s p tag rq { s with body := (b2.scan s.env).finish s.env } .ok (be2 m)))

/-- RELEASE is sent for a READY channel that has none outstanding, and release outstanding becomes yes; it is refused BADARG above
11 and BUSY otherwise (R82). -/
def Obligations.ReleaseIsSentFromReady : Prop :=
  ∀ (s : State) (p : PortId) (tag : Byte) (n : Nat),
    let rq := Request.release n
    let b := s.body
    s.Asked p tag rq →
    (11 < n → Refused s p tag rq .badArg) ∧
    ∀ c : ChanId, c.val = n →
      ((b.chan[c].state ≠ .ready ∨ b.chan[c].releaseOut = true) → Refused s p tag rq .busy) ∧
      (b.chan[c].state = .ready → b.chan[c].releaseOut = false → Answers s p tag rq
        { s with body := Body.finish s.env (Body.offer { b with chan := b.chan.set c { b.chan[c] with releaseOut := true } } c
          .release (.release .ready false)) } .ok [])

/-- WRITE_PLAN replaces one slot, its step's pause clamped (R93, R95): 0 stays 0, 1 to 8 become 9, and 17 and above become 16. A slot
or a field out of range is refused BADARG, and a write while a channel is in TEST is refused BUSY (R94). The reply gives the slot
and its contents in the coding of the request; that unused operation places, and the step bytes of an EMPTY slot, are 0 in it is the
model's choice (log 15). -/
def Obligations.WritePlanReplacesSlot : Prop :=
  ∀ (s : State) (p : PortId) (tag : Byte) (n mark : Nat) (o : StepOp),
    let rq := Request.writePlan n mark o
    s.Asked p tag rq →
    let fieldsOk := o.direction ≤ 1 ∧ o.background ≤ 3 ∧ o.mandatory ≤ 1 ∧ o.spread ≤ 1 ∧ 1 ≤ o.count ∧ o.count ≤ 6 ∧
      (∀ k x, k < o.count → o.places[k]? = some x → x ≤ 3) ∧ o.mask < 4096
    let lock := ∃ c : ChanId, s.body.chan[c].state = .test
    (15 < n ∨ 1 < mark ∨ (mark = 0 ∧ ¬fieldsOk) → Refused s p tag rq .badArg) ∧
    ∀ i : SlotNo, i.val = n → mark = 1 ∨ (mark = 0 ∧ fieldsOk) →
      (lock → Refused s p tag rq .busy) ∧
      (¬lock → ∃ x, Answers s p tag rq { s with plan := s.plan.set i x } .ok (be1 n ++ match x with
          | none => 1#8 :: zeros 14
          | some q => [0#8] ++ be1 q.direction.code ++ be1 q.background.code ++ yesNo q.mandatory ++ be1 q.spread.code ++
            be1 q.ops.length ++ ((q.ops.map fun y => BitVec.ofNat 8 y.code) ++ zeros 6).take 6 ++ be1 q.pause ++
            be2 q.mask.toNat) ∧
        (mark = 1 → x = none) ∧
        (mark = 0 → ∃ q, x = some q ∧ q.direction.code = o.direction ∧ q.background.code = o.background ∧
          (if q.mandatory then 1 else 0) = o.mandatory ∧ q.spread.code = o.spread ∧
          q.ops.map MarchOp.code = o.places.take o.count ∧ q.mask.toNat = o.mask ∧
          q.pause = if o.pause = 0 then 0 else if o.pause < 9 then 9 else if o.pause ≤ 16 then o.pause else 16))

/-- SET_CONFIG writes one item, clamped to its range, and answers the value taken (R167). POWER_CEILING is refused BUSY while a
channel is in TEST. A write of DECAY_PERIOD restarts the decay timer (R52). The level conditions follow the new value (R178,
R179). That the reply's value takes four bytes for every item is the model's choice (log 16). -/
def Obligations.SetConfigClampsAndWrites : Prop :=
  ∀ (s : State) (p : PortId) (tag : Byte) (n v : Nat),
    let rq := Request.setConfig n v
    s.Asked p tag rq →
    let ranges : List (Nat × Nat) := [(100, 600000), (3, 28), (16, 1023), (1, 3600), (1, 64), (1, 3), (1, 1000), (1, 600),
      (10, 60000), (10, 10000), (10, 1000), (0, 128), (0, 1), (0, 1)]
    let lock := ∃ c : ChanId, s.body.chan[c].state = .test
    (13 < n → Refused s p tag rq .badArg) ∧ (n = 1 → lock → Refused s p tag rq .busy) ∧
    ∀ lo hi, ranges[n]? = some (lo, hi) → ¬(n = 1 ∧ lock) → ∃ u x,
      (v < lo → x = lo) ∧ (lo ≤ v → v ≤ hi → x = v) ∧ (hi < v → x = hi) ∧
      Answers s p tag rq u .ok (be1 n ++ be4 x ++ [if x = v then 0#8 else 1#8]) ∧
      u = { s with items := u.items, decayTimer := if n = 3 then x * 1000 else s.decayTimer, body := s.body.finish u.env } ∧
      u.items.values = s.items.values.set n x

/-- CLEAR_ATTENTION clears the edge conditions that its mask names, and SET_ATTENTION sets their enable and line; the other fields
and the other conditions are as before (R182, R183). An empty mask, or one that names no condition, is refused BADARG, and so
are a value and a line that do not exist. The lines follow the fields (R180). An occurrence is captured when its condition is
not pending, and sets MORE otherwise (R176). That SET_ATTENTION answers with ten pairs of an enable byte and a line byte is the
model's choice (log 15). -/
def Obligations.AttentionIsRaisedClearedAndRouted : Prop :=
  (∀ (s : State) (p : PortId) (tag : Byte) (mask : Nat),
    let rq := Request.clearAttention mask
    s.Asked p tag rq → (mask = 0 ∨ 1024 ≤ mask → Refused s p tag rq .badArg) ∧
      (0 < mask → mask < 1024 → NoOverflow s.body → ∃ u, SameOutsideBody s u ∧
        Answers s p tag rq u .ok
          (be2 (((List.finRange 10).map fun n => if u.body.att[n].pending then 2 ^ n.val else 0).sum)) ∧
        u.body = { s.body with att := u.body.att } ∧ LevelsHold s.env u.body ∧
        ∀ n : Fin 10, (n.val = 5 ∨ n.val = 6 → u.body.att[n] = { s.body.att[n] with pending := u.body.att[n].pending }) ∧
          (n.val ≠ 5 → n.val ≠ 6 → u.body.att[n] = if mask.testBit n.val
            then { s.body.att[n] with pending := false, more := false, value := none } else s.body.att[n]))) ∧
  (∀ (s : State) (p : PortId) (tag : Byte) (mask en ln : Nat),
    let rq := Request.setAttention mask en ln
    s.Asked p tag rq → (mask = 0 ∨ 1024 ≤ mask ∨ 1 < en ∨ 1 < ln → Refused s p tag rq .badArg) ∧
      (0 < mask → mask < 1024 → en ≤ 1 → ln ≤ 1 → NoOverflow s.body → ∃ u, SameOutsideBody s u ∧
        Answers s p tag rq u .ok ((List.finRange 10).flatMap fun n => yesNo u.body.att[n].enable ++ be1 u.body.att[n].line.code) ∧
        u.body = { s.body with att := u.body.att } ∧ LevelsHold s.env u.body ∧
        ∀ n : Fin 10, (n.val ≠ 5 → n.val ≠ 6 → u.body.att[n].pending = s.body.att[n].pending) ∧
          u.body.att[n] = { s.body.att[n] with
            pending := u.body.att[n].pending
            enable := if mask.testBit n.val then en == 1 else s.body.att[n].enable
            line := if mask.testBit n.val then (if ln = 0 then .hi else .lo) else s.body.att[n].line })) ∧
  (∀ (s : State) (l : Line), s.line l = true ↔ s.inReset = false ∧
    ∃ n : Fin 10, s.body.att[n].pending = true ∧ s.body.att[n].enable = true ∧ s.body.att[n].line = l) ∧
  ∀ (b : Body) (k : Condition) (v : CondValue), b.raise k v = { b with att := b.att.set k.num (if b.att[k.num].pending then
      { b.att[k.num] with more := true } else { b.att[k.num] with pending := true, value := some v }) }

/-! ### Requests of class OWNER -/

/-- GRANT sets which of EDIT and CONTROL port B may use; a value other than yes or no is refused BADARG (R165). -/
def Obligations.GrantSetsTheMask : Prop :=
  ∀ (s : State) (p : PortId) (tag : Byte) (e c : Nat), s.Asked p tag (.grant e c) →
    (1 < e ∨ 1 < c → Refused s p tag (.grant e c) .badArg) ∧
    (e ≤ 1 → c ≤ 1 → Answers s p tag (.grant e c) { s with grant := ⟨e == 1, c == 1⟩ } .ok (be1 (1 + 2 * e + 4 * c)))

/-- CONTROL_RESET stops every channel in TEST as STOP_TEST does, and puts configuration, decay timer, plan, grant mask and
attention at their power-on values. Port B loses what its slots hold and notes RESET if that was anything. Directory,
inventories, watch table, links and fences keep what the stop leaves (R171, R172). That the note of every RELEASE of a stopped
channel is marked abandoned is the model's choice (log 19), and that the counts and lists of its run are kept is its reading
(log 18). -/
def Obligations.ControlResetRestoresDefaults : Prop :=
  ∀ (s : State) (p : PortId) (tag : Byte), s.Asked p tag .controlReset →
    let b := s.body
    let stops := fun c : ChanId => b.chan[c].state = .test
    p = .a ∧ (NoOverflow b → (∀ c, stops c → b.link[c].sendq.length < 176) →
      ∃ b2 m u, Stopped stops b b2 ∧ (∀ c : ChanId, Names m c ↔ stops c) ∧ m < 4096 ∧ Answers s p tag .controlReset u .ok (be2 m) ∧
        u = { s with items := Items.default, decayTimer := 60000, plan := Plan.default, grant := ⟨false, false⟩,
                     body := u.body, portA := { s.portA with lastLoss := .none }, portB := u.portB } ∧
        ((∀ c : ChanId, b.chan[c].admission ≠ .none → stops c) →
          u.body = Body.refreshLevels u.env { b2 with att := Attention.initial }) ∧
        u.portB = { s.portB with
          req := none, reply := none, readPos := 0, hold := none
          lastLoss := if s.portB.req.isSome || s.portB.reply.isSome then .reset else s.portB.lastLoss
          reading := if s.portB.reading = some .reply then some .ones else s.portB.reading })

/-! ### Links -/

/-- At every expiry of the training timer a link in TRAINING sends INIT with protocol version 1 and its number, and the timer starts
again for 1 ms (R127). An expiry that is not due changes nothing (log 2). -/
def Obligations.TrainingTimerSendsInit : Prop :=
  ∀ (s : State) (l : ChanId),
    let k := s.body.link[l]
    (s.running = true → k.state = .training → k.training = some 0 → exec (.trainingTimerExpiry l) s = .next { s with
      body := Body.finish s.env { s.body with
        link := s.body.link.set l { k with lane := some ⟨0#4, .init l⟩, training := some 1 } } }) ∧
    (¬(s.running = true ∧ k.state = .training ∧ k.training = some 0) → exec (.trainingTimerExpiry l) s = .next s) ∧
    (Msg.init l).payload = [1#8, BitVec.ofNat 8 l.val]

/-- A loss of signal in UP, and the expiry of an acknowledgement timer, take the link out of UP: its queues, its in-flight list and
its receive slots are dropped, the event is counted, and it trains again with an INIT (R129, R143). Its channel acts by its
state (R86): TEST and READY fail with LINK_LOST, IDLE goes DOWN, SERVICE and RESYNC go LOST. An event that
cannot occur changes nothing, which is the model's choice (log 2), and the counts and lists of a run are kept, which is its reading
(log 18). -/
def Obligations.LinkLeavesUp : Prop :=
  (∀ (s : State) (l : ChanId), let k := s.body.link[l]
    let dropped := fun (n : Counters) =>
      { k with state := .training, rx := [], sendq := [], inflight := [], counters := n, training := some 1,
               lane := some ⟨0#4, .init l⟩, overflow := false }
    let left := fun n => (.next
      { s with body := Body.finish s.env (Body.linkLost s.env { s.body with link := s.body.link.set l (dropped n) } l) } : Result)
    let count := fun n : Nat => if n < 65535 then n + 1 else 65535
    (s.running = true → k.state = .up →
      exec (.lossOfSignal l) s = left { k.counters with lossesOfSignal := count k.counters.lossesOfSignal } ∧
      ∀ f ∈ k.inflight, f.timer = 0 →
        exec (.ackTimerExpiry l f.seq) s = left { k.counters with ackTimeouts := count k.counters.ackTimeouts }) ∧
    (¬(s.running = true ∧ k.state = .up) → exec (.lossOfSignal l) s = .next s) ∧
    ∀ q, ¬(s.running = true ∧ k.state = .up ∧ ∃ f ∈ k.inflight, f.seq = q ∧ f.timer = 0) →
      exec (.ackTimerExpiry l q) s = .next s) ∧
  ∀ (env : Env) (b : Body) (c : ChanId),
    let st := b.chan[c].state
    (st ∈ [.test, .ready] → b.linkLost env c = b.failChannel env c .linkLost) ∧
    (st = .idle → b.linkLost env c = { b with chan := b.chan.set c { b.chan[c] with state := .down } }) ∧
    (st ∈ [.down, .lost, .failed] → b.linkLost env c = b) ∧
    (st ∈ [.service, .resync] → ∃ b0 b1 : Body, b0 = { b with fence := b0.fence } ∧
      (∀ f : Fin 8, b0.fence[f] = if f.val = c.val then { b.fence[f] with out := none } else b.fence[f]) ∧
      Settled (· = c) b0 b1 ∧ b.linkLost env c =
        let owed := if c.val < 8 then [] else (List.finRange 1024).filterMap fun e => b.dir[e].live.bind fun r =>
          if r.key.chan = c ∧ r.st = .removing then some r.key else none
        let b2 := (owed.foldl (fun (x : Body) k => x.raise .refillNeeded (.key k)) b1).raise .linkLost (.channel c)
        let ch :=
          { b1.chan[c] with
            state := .lost, phase := none, planPos := none, step := none, admission := .none, releaseOut := false
            installPos := none, walkPos := none, awaited := none, linkWait := none, geomWait := none, stepTimer := none }
        { b2 with chan := b2.chan.set c ch })

/-- When the frame on the lane has finished, the head of the send queue of a link in UP goes on the lane with the next transmit
sequence and, if it is of a type that waits for an ACK, joins the in-flight list with its timer (R136, R138, R141). It stays
where it is when its type waits and the list holds 8 frames, and when a frame in flight carries that number. The runs of R139
then go on. That this also starts an idle lane is the model's reading (log 10), and that nothing happens while the part does not run
is its choice (log 2). -/
def Obligations.FrameSentPutsHeadOnLane : Prop :=
  (∀ (s : State) (l : ChanId), (s.running = false → exec (.frameSent l) s = .next s) ∧
    (s.running = true → exec (.frameSent l) s = .next { s with body := Body.finish s.env (Body.advanceLane s.env
      { s.body with link := s.body.link.set l { s.body.link[l] with lane := none } } l) })) ∧
  ∀ (env : Env) (b : Body) (c : ChanId),
    let k := b.link[c]
    let acked := fun (m : Msg) => m.type ∈ [0x05#8, 0x06#8, 0x07#8, 0x09#8, 0x0A#8]
    let held := fun (m : Msg) => (acked m ∧ 8 ≤ k.inflight.length) ∨ ∃ f ∈ k.inflight, f.seq = k.nextTx
    ((k.state ≠ .up ∨ k.lane ≠ none ∨ k.sendq = [] ∨ ∃ q qs, k.sendq = q :: qs ∧ held q.msg) →
      b.advanceLane env c = b.continueRuns c) ∧
    ∀ q qs, k.state = .up → k.lane = none → k.sendq = q :: qs → ¬held q.msg →
      b.advanceLane env c = Body.continueRuns { b with link := b.link.set c { k with
        sendq := qs, lane := some ⟨k.nextTx, q.msg⟩, nextTx := k.nextTx + 1#4
        inflight := k.inflight ++ if acked q.msg then [⟨k.nextTx, q.msg, q.note, env.items.ackTimeout⟩] else [] } } c

/-- A run of INSTALL frames offers its next frame only while the send queue holds fewer than 160 (R139). So it offers as many as
there is room for, in ascending entry number, and stops at the next one, which is its position from then on; with none left the run
has ended. The install phase sends the PENDING entries from its position on (R72), and the RESYNC walk the PENDING, ACTIVE and
REFILL ones, awaiting each (R122). A PENDING entry that is sent becomes INSTALLING. -/
def Obligations.InstallRunsFillTheSendQueue : Prop :=
  (∀ (b : Body) (c : ChanId),
    (b.chan[c].state = .test → b.continueRuns c = b.continueInstalls c) ∧
    (b.chan[c].state = .resync → b.continueRuns c = (b.continueWalk c).resyncCheck c) ∧
    (b.chan[c].state ∉ [.test, .resync] → b.continueRuns c = b) ∧
    (b.chan[c].installPos = none → b.continueInstalls c = b) ∧
    (b.chan[c].walkPos = none ∨ b.chan[c].walkPos = some 1024 → b.continueWalk c = b)) ∧
  ∀ (b : Body) (c : ChanId) (p : Nat), b.link[c].state = .up → b.link[c].overflow = false →
    let room := 160 - b.link[c].sendq.length
    let numbered := fun (f : Live → Bool) => (List.finRange 1024).filter fun e =>
      decide (p ≤ e.val) && b.dir[e].live.any fun r => r.key.chan == c && f r
    let frame := fun (resync : Bool) (e : EntryNo) => b.dir[e].live.bind fun r => r.repl.map fun x => QFrame.mk
      (.install r.key.bank r.key.row x) (.directory e (if r.st = .pending then b.dir[e].gen + 1#8 else b.dir[e].gen) resync)
    let sends := fun (es : List EntryNo) (e : EntryNo) =>
      if e ∈ es then
        match b.dir[e].live with
        | some r => if r.st = .pending then ⟨b.dir[e].gen + 1#8, some { r with st := .installing }⟩ else b.dir[e]
        | none => b.dir[e]
      else b.dir[e]
    (b.chan[c].installPos = some p →
      let es := numbered fun r => r.st == .pending
      (∀ e ∈ es, ∀ r, b.dir[e].live = some r → r.repl ≠ none) → ∃ b', b.continueInstalls c = b' ∧
        b' = { b with
          dir := b'.dir, link := b'.link
          chan := b.chan.set c { b.chan[c] with installPos := (es.drop room).head?.map (·.val) } } ∧
        (∀ e : EntryNo, b'.dir[e] = sends (es.take room) e) ∧
        b'.link = b.link.set c { b.link[c] with
          sendq := b.link[c].sendq ++ (es.take room).filterMap (frame false) }) ∧
    (b.chan[c].walkPos = some p → p < 1024 →
      let es := numbered fun r => r.st == .pending || r.st == .active || r.st == .refill
      (∀ e ∈ es, ∀ r, b.dir[e].live = some r → r.repl ≠ none) → ∃ b', b.continueWalk c = b' ∧
        b' = { b with
          dir := b'.dir, link := b'.link
          chan := b.chan.set c { b.chan[c] with
            walkPos := some (match (es.drop room).head? with
              | some e => e.val
              | none => 1024)
            awaited := b.chan[c].awaited.map (· + (es.take room).length) } } ∧
        (∀ e : EntryNo, b'.dir[e] = sends (es.take room) e) ∧
        b'.link = b.link.set c { b.link[c] with
          sendq := b.link[c].sendq ++ (es.take room).filterMap (frame true) })

/-- A frame that arrives is checked for length and CRC, then for link state, then for its slot (R132, R133). One that is accepted in
UP moves the expected sequence; a gap is counted and flagged, and fails a channel in TEST (R134, R87). In TRAINING only HELLO is
taken; where it is held and what a later one does to it are the model's choice (log 7), and so is the reading of short frames
(log 9), the moment of the gap check (log 6), and that nothing is received while the part does not run (log 2). -/
def Obligations.ArrivingFrameIsChecked : Prop :=
  (∀ (bytes : List Byte) (f : RxFrame), parseLinkFrame bytes = some f ↔ f.payload.length ≤ 28 ∧ ∃ sq rest,
    f.seq = sq.truncate 4 ∧ bytes = sealed ([f.type, sq, BitVec.ofNat 8 f.payload.length] ++ f.payload) ++ rest) ∧
  ∀ (s : State) (l : ChanId) (bytes : List Byte), let k := s.body.link[l]
    let left := fun (k' : Link) => (.next
      { s with body := Body.finish s.env { s.body with link := s.body.link.set l k' } } : Result)
    let count := fun n : Nat => if n < 65535 then n + 1 else 65535
    (s.running = false → exec (.frameArrival l bytes) s = .next s) ∧
    (s.running = true → parseLinkFrame bytes = none → exec (.frameArrival l bytes) s =
      left { k with counters := { k.counters with crcDiscards := count k.counters.crcDiscards } }) ∧
    ∀ f, s.running = true → parseLinkFrame bytes = some f →
      (k.state = .training → f.type = 0x81#8 → f.payload.length = 1 → exec (.frameArrival l bytes) s =
        left { k with rx := [f] }) ∧
      (k.state = .training → f.type ≠ 0x81#8 ∨ f.payload.length ≠ 1 → exec (.frameArrival l bytes) s = left k) ∧
      (k.state = .up → (∃ g ∈ k.rx, g.seq.getLsbD 0 = f.seq.getLsbD 0) →
        exec (.frameArrival l bytes) s =
          left { k with counters := { k.counters with overruns := count k.counters.overruns } }) ∧
      (k.state = .up → (∀ g ∈ k.rx, g.seq.getLsbD 0 ≠ f.seq.getLsbD 0) →
        (f.seq = k.expected → exec (.frameArrival l bytes) s =
          left { k with rx := k.rx ++ [f], expected := f.seq + 1#4 }) ∧
        (f.seq ≠ k.expected →
          let k' := { k with rx := k.rx ++ [f], expected := f.seq + 1#4, gap := true,
                             counters := { k.counters with gaps := count k.counters.gaps } }
          (s.body.chan[l].state ≠ .test → exec (.frameArrival l bytes) s = left k') ∧
          (s.body.chan[l].state = .test → exec (.frameArrival l bytes) s = .next { s with
            body := Body.finish s.env (Body.failChannel s.env { s.body with link := s.body.link.set l k' } l .linkError) })))

/-- An accepted frame is well formed when its type is one of the eight client messages, its length is that type's, and the kind of a
REPORT, the scope of a DRAINED and the result of an ACK are codes of their sets (R187, R188). One that is malformed leaves its
slot and is counted, and reaches no block (R135). When the oldest frame held is not malformed, or none is held, nothing changes: that
is the model's choice (log 2). -/
def Obligations.MalformedFrameIsCounted : Prop :=
  (∀ f : RxFrame, f.wellFormed = true ↔
    (f.type.toNat, f.payload.length) ∈
      [(0x81, 1), (0x82, 21), (0x83, 2), (0x84, 5), (0x85, 2), (0x86, 6), (0x87, 5), (0x88, 4)] ∧
    (f.type = 0x87#8 → ∀ x, f.payload[4]? = some x → x.toNat ≤ 2) ∧
    (f.type = 0x86#8 → ∀ x, f.payload[2]? = some x → x.toNat ≤ 1) ∧
    (f.type = 0x85#8 → ∀ x, f.payload[1]? = some x → x.toNat ≤ 1)) ∧
  (∀ (f : RxFrame) (type : Byte), f.is type = true ↔ f.wellFormed = true ∧ f.type = type) ∧
  ∀ (s : State) (l : ChanId),
    let k := s.body.link[l]
    (∀ f, s.HoldsFrame l f → f.wellFormed = false → exec (.malformedFrame l) s = .next { s with
      body := Body.finish s.env { s.body with link := s.body.link.set l { k with
        rx := k.rx.tail
        counters := { k.counters with
          malformed := if k.counters.malformed < 65535 then k.counters.malformed + 1 else 65535 } } } }) ∧
    ((∀ f, s.HoldsFrame l f → f.wellFormed = true) → exec (.malformedFrame l) s = .next s)

/-- A HELLO handled in TRAINING records its protocol version, and with version 1 the link reaches UP and its channel is told
(R128): DOWN goes IDLE (R64), a channel in its link wait sends DISCOVER (R66), LOST goes to RESYNC (R121), and any other is as
before. In UP a HELLO is discarded, and that its version is not recorded is the model's reading (log 8). That a HELLO waits in a slot
for this command is the model's choice (log 7), and so is that nothing changes when the oldest frame held is no HELLO (log 2). -/
def Obligations.HelloBringsLinkUp : Prop :=
  (∀ (s : State) (l : ChanId) (f : RxFrame), s.HoldsFrame l f → f.is 0x81#8 = true →
    let k := s.body.link[l]
    (k.state ≠ .training → exec (.hello l) s = .next { s with
      body := { s.body with link := s.body.link.set l { k with rx := k.rx.tail } } }) ∧
    (k.state = .training → ∀ v, f.payload = [v] →
      (v ≠ 1#8 → exec (.hello l) s = .next { s with body := Body.finish s.env { s.body with
        link := s.body.link.set l { k with rx := k.rx.tail, lastHello := some v } } }) ∧
      (v = 1#8 → exec (.hello l) s = .next { s with body := Body.finish s.env (Body.linkReachedUp s.env { s.body with
        link := s.body.link.set l { k with
          rx := k.rx.tail, lastHello := some 1#8, state := .up, training := none, nextTx := 0#4, expected := f.seq + 1#4
          counters := { k.counters with
            timesUp := if k.counters.timesUp < 65535 then k.counters.timesUp + 1 else 65535 } } } l) }))) ∧
  (∀ (s : State) (l : ChanId), (∀ f, s.HoldsFrame l f → f.is 0x81#8 = false) → exec (.hello l) s = .next s) ∧
  ∀ (env : Env) (b : Body) (c : ChanId),
    let ch := b.chan[c]
    (ch.state = .down → b.linkReachedUp env c = { b with chan := b.chan.set c { ch with state := .idle } }) ∧
    (ch.state = .test → ch.linkWait ≠ none → b.linkReachedUp env c = Body.offer { b with
      chan := b.chan.set c { ch with linkWait := none, geomWait := some env.items.ackTimeout } } c .discover .none) ∧
    (ch.state = .lost → b.linkReachedUp env c = Body.continueWalk (Body.offer { b with
      chan := b.chan.set c { ch with
        state := .resync, phase := none, planPos := none, step := none, admission := .none, releaseOut := false
        installPos := none, walkPos := some 0, awaited := some 1, linkWait := none, geomWait := none
        stepTimer := none } } c .clearSet .clearSet) c) ∧
    (ch.state ∉ [.down, .test, .lost] ∨ (ch.state = .test ∧ ch.linkWait = none) → b.linkReachedUp env c = b)

/-! ### Client messages; `b` is always the blocks with the frame gone from its slot -/

/-- A GEOMETRY acts while its channel waits for it in TEST/DISCOVER (R67) and is ignored otherwise. One with a field out of its
range fails the channel with GEOMETRY (R27). One that is accepted frees watch records (R59), rebuilds the inventory and runs the
claim (R42), and leads to POOLCHECK, or fails the channel with UNREPAIRABLE when an entry is left UNRESOLVED (R46). An ordinary row is
one inside the geometry and outside the pool region (R28). That every record is freed where there was no inventory is the model's
reading (log 21), and that nothing changes when the oldest frame held is no GEOMETRY is its choice (log 2). -/
def Obligations.GeometryIsTakenInItsWait : Prop :=
  (∀ (f : RxFrame) (g : Geometry), f.payload.length = 21 → (f.geometry = g ↔ g.serial.length = 12 ∧
    FitsBytes 1 g.banks ∧ FitsBytes 4 g.rowsPerBank ∧ FitsBytes 1 g.banksPerGroup ∧ FitsBytes 1 g.sparesPerGroup ∧
    FitsBytes 1 g.poolBank ∧ FitsBytes 1 g.poolRows ∧ f.payload = be1 g.banks ++ be4 g.rowsPerBank ++
      be1 g.banksPerGroup ++ be1 g.sparesPerGroup ++ be1 g.poolBank ++ be1 g.poolRows ++ g.serial)) ∧
  (∀ g : Geometry, g.accepted = true ↔ 1 ≤ g.banks ∧ g.banks ≤ 32 ∧ (∃ k, 10 ≤ k ∧ k ≤ 17 ∧ g.rowsPerBank = 2 ^ k) ∧
    1 ≤ g.banksPerGroup ∧ g.banksPerGroup ≤ 8 ∧ g.banksPerGroup ∣ g.banks ∧ g.sparesPerGroup ≤ 4 ∧ g.poolBank < g.banks ∧
    g.poolRows ≤ 128 ∧ g.poolRows < g.rowsPerBank) ∧
  (∀ (g : Geometry) (bank row : Nat), g.ordinary bank row = true ↔
    bank < g.banks ∧ row < g.rowsPerBank ∧ ¬(bank = g.poolBank ∧ g.rowsPerBank - g.poolRows ≤ row)) ∧
  (∀ (s : State) (l : ChanId) (f : RxFrame), s.HoldsFrame l f → f.is 0x82#8 = true →
    let b := { s.body with link := s.body.link.set l { s.body.link[l] with rx := s.body.link[l].rx.tail } }
    let ch := b.chan[l]
    let waits := ch.state = .test ∧ ch.phase = some .discover ∧ ch.geomWait ≠ none
    let b1 := { b with chan := b.chan.set l { ch with geomWait := none } }
    (¬waits → exec (.geometry l) s = .next { s with body := b }) ∧
    (waits → f.geometry.accepted = false →
      exec (.geometry l) s = .next { s with body := Body.finish s.env (Body.failChannel s.env b1 l .geometry) }) ∧
    (waits → f.geometry.accepted = true → ∃ b2 : Body, b2 = { b1 with watch := b2.watch } ∧
      (∀ i : WatchNo, b2.watch[i] = match b.watch[i] with
        | none => none
        | some w => if w.chan = l ∧ (b.inv[l].map (·.tag) ≠ some (crc16 f.geometry.serial) ∨
            f.geometry.ordinary w.bank w.row = false) then none else some w) ∧
      let b3 := b2.claim s.env l f.geometry
      let open_ := ∃ (e : EntryNo) (r : Live), b3.dir[e].live = some r ∧ r.key.chan = l ∧ r.st = .unresolved
      (open_ → exec (.geometry l) s = .next { s with body := Body.finish s.env (b3.failChannel s.env l .unrepairable) }) ∧
      (¬open_ → exec (.geometry l) s = .next { s with body := Body.finish s.env (b3.enterPoolcheck s.env l) }))) ∧
  ∀ (s : State) (l : ChanId), (∀ f, s.HoldsFrame l f → f.is 0x82#8 = false) → exec (.geometry l) s = .next s

/-- The claim starts from a fresh inventory, with every spare and slot FREE, no exclusion and every tally 0, and visits the
channel's entries in ascending number (R42). A visit frees an entry that no longer belongs to the memory (R43) or whose bank is
kept whole, keeps a whole-bank entry (R44), and gives a row entry the target it wants if that is FREE, or the next one of R36, or
leaves it UNRESOLVED (R45, R46). That such an entry too takes the new device tag (R43) is the model's reading (log 17). -/
def Obligations.ClaimKeepsOrFreesEntries : Prop :=
  (∀ g : Geometry, Inventory.build g =
    { geo := g, tag := crc16 g.serial, exclusions := 0, tallies := List.replicate g.banks 0
      spares := List.replicate (g.banks / g.banksPerGroup) (List.replicate g.sparesPerGroup .free)
      slots := List.replicate g.poolRows .free }) ∧
  (∀ (env : Env) (b : Body) (c : ChanId) (g : Geometry), b.claim env c g =
    (((List.finRange 1024).filter fun e => b.dir[e].live.any fun r => r.key.chan == c).foldl (Body.claimVisit env c)
      ({ b with inv := b.inv.set c (some (Inventory.build g)) }, [])).1) ∧
  ∀ (env : Env) (b : Body) (c : ChanId) (kept : List Nat) (e : EntryNo) (r : Live) (v : Inventory),
    b.dir[e].live = some r → r.key.chan = c → b.inv[c] = some v →
    let belongs := (r.tag = v.tag ∨ (r.origin = .seed ∧ r.tag = 0#16)) ∧ r.key.bank < v.geo.banks ∧
      ∀ row, r.key.row = some row → v.geo.ordinary r.key.bank row = true
    let write := fun (b' : Body) (q : Option Live) => { b' with dir := b'.dir.set e ⟨b.dir[e].gen + 1#8, q⟩ }
    (¬belongs ∨ r.key.bank ∈ kept → Body.claimVisit env c (b, kept) e = (write b none, kept)) ∧
    (belongs → r.key.bank ∉ kept →
      (r.key.row = none → Body.claimVisit env c (b, kept) e =
        (((List.finRange 1024).filter fun d => decide (d < e) && b.dir[d].live.any fun q =>
            q.key.chan == c && q.key.bank == r.key.bank).foldl Body.freeEntry
          (write b (some { r with st := .pending, repl := some .exclude, requested := none, tag := v.tag, round := 0 })),
         r.key.bank :: kept)) ∧
      (r.key.row ≠ none →
        let wants := fun x => r.repl = some x ∨ (r.repl = none ∧ ∃ t, r.requested = some t ∧ x = .target t)
        let free := fun x => match x with
          | .target (.pool k) => v.slots[k]? = some .free
          | .target (.device g i) => env.items.deviceSparesUse = 1 ∧ g = r.key.bank / v.geo.banksPerGroup ∧
              v.spare g i = some .free
          | .exclude => c.val < 8 ∧ v.exclusions < 32
        let keeps := fun x => Body.claimVisit env c (b, kept) e =
          (write { b with inv := b.inv.set c (some (v.take x)) }
            (some { r with st := .pending, repl := some x, requested := none, tag := v.tag, round := 0 }), kept)
        (∀ x, wants x → free x → keeps x) ∧
        ((∀ x, wants x → ¬free x) →
          (∀ x, b.choose env c r.key.bank = some x → keeps x) ∧
          (b.choose env c r.key.bank = none → ∃ t, Body.claimVisit env c (b, kept) e =
            (write b (some { r with st := .unresolved, repl := none, requested := t, tag := v.tag, round := 0 }), kept) ∧
            ∀ x, t = some x ↔ wants (.target x)))))

/-- A STEP_DONE with the outstanding step's token ends the step (R68, R69): COMPLETE goes on, HALTED fails the channel with AGENT
unless the step is an optional plan step, which is counted as skipped, ERROR fails it with AGENT, and any other outcome with
PROTOCOL. Any other STEP_DONE is ignored. When the oldest frame held is no STEP_DONE nothing changes: that is the model's choice
(log 2). -/
def Obligations.StepDoneEndsTheStep : Prop :=
  (∀ (s : State) (l : ChanId) (f : RxFrame) (tok out : Byte), s.HoldsFrame l f → f.is 0x83#8 = true → f.payload = [tok, out] →
    let b := { s.body with link := s.body.link.set l { s.body.link[l] with rx := s.body.link[l].rx.tail } }
    let ch := b.chan[l]
    let go := fun (b' : Body) => exec (.stepDone l) s = .next { s with body := b'.finish s.env }
    (ch.state ≠ .test ∨ (∀ r, ch.step = some r → r.token ≠ tok) → exec (.stepDone l) s = .next { s with body := b }) ∧
    ∀ r, ch.state = .test → ch.step = some r → r.token = tok →
      let optional := ∃ n x, r.kind = .plan n ∧ s.plan[n] = some x ∧ x.mandatory = false
      let ended := { b with chan := b.chan.set l { ch with step := none, admission := .none, stepTimer := none } }
      (out = 0#8 → go ((ended.scan s.env).afterStep s.env l r.kind)) ∧
      (out = 1#8 → ¬optional → go (b.failChannel s.env l .agent)) ∧
      (out = 1#8 → optional → ∃ b', b' = ended.scan s.env ∧ go (Body.afterStep s.env
        { b' with chan := b'.chan.set l { b'.chan[l] with skipped := b'.chan[l].skipped + 1 } } l r.kind)) ∧
      (out = 2#8 → go (b.failChannel s.env l .agent)) ∧
      (2 < out.toNat → go (b.failChannel s.env l .protocol))) ∧
  (∀ (s : State) (l : ChanId), (∀ f, s.HoldsFrame l f → f.is 0x83#8 = false) → exec (.stepDone l) s = .next s) ∧
  ∀ (env : Env) (b : Body) (c : ChanId), b.afterStep env c .poolcheck = b.enterSeedInstall env c ∧
    (∀ n : SlotNo, b.afterStep env c (.plan n) = Body.walkPlan env c ((List.finRange 16).drop (n.val + 1)) b) ∧
    ∀ k, b.afterStep env c (.verify k) =
      if b.chan[c].roundFailed then b.enterRepairInstall env c else b.enterReleasing env c

/-- A FAIL with the outstanding step's token is checked in the order of R70: ignored for an excluded bank, and PROTOCOL outside the
geometry or outside the step's region. POOLCHECK marks a FREE slot BAD and retargets the entry of a USED one (R71). MAIN makes a
new entry or retargets an ACTIVE one (R75). VERIFY retargets an ACTIVE one, and in the last round converts it (R77). A FAIL that
meets none of these changes nothing more. That a channel with no inventory, which no run shows with a step, fails with PROTOCOL is
the model's choice (log 23), and so is that nothing changes when the oldest frame held is no FAIL (log 2). -/
def Obligations.FailIsCheckedAndActedOn : Prop :=
  (∀ (s : State) (l : ChanId) (f : RxFrame) (tok : Byte) (bank row : Nat), s.HoldsFrame l f → f.is 0x84#8 = true →
    FitsBytes 1 bank → FitsBytes 3 row → f.payload = tok :: (be1 bank ++ be3 row) →
    let b := { s.body with link := s.body.link.set l { s.body.link[l] with rx := s.body.link[l].rx.tail } }
    let ch := b.chan[l]
    let go := fun (b' : Body) => exec (.fail l) s = .next { s with body := b'.finish s.env }
    let ignored := exec (.fail l) s = .next { s with body := b }
    (ch.state ≠ .test ∨ (∀ r, ch.step = some r → r.token ≠ tok) → ignored) ∧
    ∀ r, ch.state = .test → ch.step = some r → r.token = tok →
      (BankExcluded b l bank → ignored) ∧
      (¬BankExcluded b l bank → b.inv[l] = none → go (b.failChannel s.env l .protocol)) ∧
      ∀ v, ¬BankExcluded b l bank → b.inv[l] = some v →
        let inside := bank < v.geo.banks ∧ row < v.geo.rowsPerBank
        let pool := bank = v.geo.poolBank ∧ v.geo.rowsPerBank - v.geo.poolRows ≤ row
        let region := match r.kind with
          | .poolcheck => pool
          | .plan _ => ¬pool
          | .verify _ => ⟨bank, row⟩ ∈ r.region
        (¬(inside ∧ region) → go (b.failChannel s.env l .protocol)) ∧
        (inside → region →
          (r.kind = .poolcheck → let slot := row - (v.geo.rowsPerBank - v.geo.poolRows)
            (v.slots[slot]? = some .free →
              go { b with inv := b.inv.set l (some { v with slots := v.slots.set slot .bad }) }) ∧
            (v.slots[slot]? = some .bad → go b) ∧
            ∀ e, v.slots[slot]? = some .used → (b.findEntry fun q => q.key.chan == l && q.repl == some (.target (.pool slot))) =
              some e → go (b.testRetarget s.env l e none)) ∧
          ((∀ (e : EntryNo) (q : Live), b.dir[e].live = some q → q.key ≠ ⟨l, bank, some row⟩) →
            ((∃ n, r.kind = .plan n) → go (b.failNew s.env ⟨l, bank, some row⟩)) ∧ ((∃ n, r.kind = .verify n) → go b)) ∧
          ∀ (e : EntryNo) (q : Live), b.dir[e].live = some q → q.key = ⟨l, bank, some row⟩ →
            (∀ (d : EntryNo) (x : Live), b.dir[d].live = some x → x.key = q.key → d = e) →
            let acts := q.st = .active ∧ ∃ t, q.repl = some (.target t)
            let marked := { b with chan := b.chan.set l { ch with roundFailed := true } }
            (¬acts → r.kind ≠ .poolcheck → go b) ∧
            (acts → (∃ n, r.kind = .plan n) → go (b.testRetarget s.env l e none)) ∧
            ∀ k, acts → r.kind = .verify k →
              (k < s.items.verifyRounds → go (marked.testRetarget s.env l e (some k))) ∧
              (s.items.verifyRounds ≤ k → l.val < 8 → v.exclusions < 32 → go ((marked.convert e k).countRepair l)) ∧
              (s.items.verifyRounds ≤ k → 8 ≤ l.val ∨ 32 ≤ v.exclusions → go (b.failChannel s.env l .unrepairable)))) ∧
  ∀ (s : State) (l : ChanId), (∀ f, s.HoldsFrame l f → f.is 0x84#8 = false) → exec (.fail l) s = .next s

/-- An ACK takes the frame that it answers out of the in-flight list and goes with that frame's note to its owner, and the head of the
send queue is checked again (R142). One that no frame in flight has the number of is ignored. The directory takes a result only
for the generation recorded (R22): an INSTALL's as R12 and R122 give, a REMOVE's as R15 gives. CLEAR_SET's and RELEASE's results
go as R122, R80, R81 and R123 give, and LIFT's is dropped. That an abandoned RELEASE is known by a mark in its note is the model's
choice (log 19), and so is that nothing changes when the oldest frame held is no ACK (log 2). -/
def Obligations.AckGoesToItsOwner : Prop :=
  (∀ (s : State) (l : ChanId) (f : RxFrame) (n res : Byte), s.HoldsFrame l f → f.is 0x85#8 = true → f.payload = [n, res] →
    let k := s.body.link[l]
    let dropped := fun (m : BitVec 4) =>
      let k' := { k with rx := k.rx.tail, inflight := k.inflight.filter fun g => g.seq != m }
      { s.body with link := s.body.link.set l k' }
    ((∀ g ∈ k.inflight, g.seq.toNat ≠ n.toNat) → exec (.ack l) s = .next { s with
      body := { s.body with link := s.body.link.set l { k with rx := k.rx.tail } } }) ∧
    ∀ g, (k.inflight.find? fun g => g.seq.toNat == n.toNat) = some g → exec (.ack l) s = .next { s with
      body := Body.finish s.env
        ((((dropped g.seq).ackOwner s.env l g.note (res == 0#8)).resyncCheck l).advanceLane s.env l) }) ∧
  (∀ (s : State) (l : ChanId), (∀ f, s.HoldsFrame l f → f.is 0x85#8 = false) → exec (.ack l) s = .next s) ∧
  ∀ (env : Env) (b : Body) (c : ChanId),
    let st := b.chan[c].state
    let lowered := { b with chan := b.chan.set c { b.chan[c] with awaited := b.chan[c].awaited.map (· - 1) } }
    let fails := fun (b' : Body) cause => b'.failChannel env c cause
    (∀ e gen resync ok, let b1 := if resync then lowered else b
      (∀ r, b.dir[e].live = some r → b.dir[e].gen = gen → b.ackOwner env c (.directory e gen resync) ok =
        b1.ackEntry env c e r ok) ∧
      (b.dir[e].live = none ∨ b.dir[e].gen ≠ gen → b.ackOwner env c (.directory e gen resync) ok =
        if resync = true ∧ ok = false ∧ st = .resync then fails b1 .protocol else b1)) ∧
    (∀ e r, r.st = .installing →
      (st = .test → b.ackEntry env c e r true = ((b.activate e).noteRepaired c r).checkInstallPhase env c) ∧
      (st = .ready ∨ (st = .resync ∧ c.val < 8) → b.ackEntry env c e r true = b.activate e) ∧
      (st = .service → c.val < 8 → b.ackEntry env c e r true = (b.activate e).raise .repairDone (.key r.key)) ∧
      (st ∈ [.service, .resync] → 8 ≤ c.val → b.ackEntry env c e r true =
        Body.raise { b with dir := b.dir.set e (match b.dir[e].live with
          | some q => ⟨b.dir[e].gen + 1#8, some { q with st := .refill }⟩
          | none => b.dir[e]) } .refillNeeded (.key r.key)) ∧
      (st ∈ [.test, .resync] → (∃ g i, r.repl = some (.target (.device g i))) →
        b.ackEntry env c e r false = b.rejectTarget env c e) ∧
      (st ∈ [.ready, .service] ∨ (st ∈ [.test, .resync] ∧ ∀ g i, r.repl ≠ some (.target (.device g i))) →
        b.ackEntry env c e r false = fails b .protocol)) ∧
    (∀ r row t, r.key.row = some row → r.repl = some (.target t) → b.noteRepaired c r = { b with
      chan := b.chan.set c { b.chan[c] with repaired := if ⟨r.key.bank, row⟩ ∈ b.chan[c].repaired then b.chan[c].repaired
        else b.chan[c].repaired ++ [⟨r.key.bank, row⟩] } }) ∧
    (∀ r, (r.key.row = none ∨ ∀ t, r.repl ≠ some (.target t)) → b.noteRepaired c r = b) ∧
    (∀ e r, r.st ∈ [.active, .refill] → b.ackEntry env c e r true = b ∧
      (st = .resync → (∃ t, r.repl = some (.target t)) → b.ackEntry env c e r false = b.rejectTarget env c e) ∧
      (st = .resync → (∀ t, r.repl ≠ some (.target t)) → b.ackEntry env c e r false = fails b .protocol)) ∧
    (∀ e r ok, r.st = .removing → b.ackEntry env c e r ok =
      if st = .service ∧ 8 ≤ c.val then (b.freeEntry e).raise .refillNeeded (.key r.key) else b.freeEntry e) ∧
    (∀ e, (b.retarget env e none = none → b.rejectTarget env c e = fails b .unrepairable) ∧
      ∀ b1, b.retarget env e none = some b1 →
        (st = .resync → ∃ b2, b2 = b1.sendInstall e true ∧ b.rejectTarget env c e = { b2 with
          chan := b2.chan.set c { b2.chan[c] with awaited := b2.chan[c].awaited.map (· + 1) } }) ∧
        (st ≠ .resync → b.rejectTarget env c e = (b1.sendInstall e false).countRepair c)) ∧
    (st = .resync → b.ackOwner env c .clearSet true = lowered ∧ b.ackOwner env c .clearSet false = fails lowered .protocol) ∧
    (st ≠ .resync → ∀ ok, b.ackOwner env c .clearSet ok = b) ∧
    (∀ k ok, (b.ackOwner env c (.release k true) ok = b) ∧
      (b.chan[c].releaseOut = false → b.ackOwner env c (.release k false) ok = b) ∧
      (b.chan[c].releaseOut = true →
        let closes := (k = .resync ∧ st = .resync) ∨
          (k ≠ .resync ∧ (st = .ready ∨ (st = .test ∧ b.chan[c].phase = some .releasing)))
        (¬closes → b.ackOwner env c (.release k false) ok = b) ∧
        (closes → ok = false → b.ackOwner env c (.release k false) ok = fails b .protocol) ∧
        (closes → ok = true → st ≠ .test → b.ackOwner env c (.release k false) ok = b.enterService env c) ∧
        (closes → ok = true → st = .test → b.ackOwner env c (.release k false) ok = Body.enterService env
          (b.raise .testDone (.testDone c b.chan[c].skipped b.chan[c].repairs)) c))) ∧
    (∀ sr ok, b.ackOwner env c (.lift sr) ok = b) ∧
    let done := st = .resync ∧ b.chan[c].walkPos = some 1024 ∧ b.chan[c].awaited = some 0 ∧ b.chan[c].releaseOut = false
    (¬done → b.resyncCheck c = b) ∧ (done → b.resyncCheck c =
      Body.offer { b with chan := b.chan.set c { b.chan[c] with releaseOut := true } } c .release (.release .resync false))

/-- A DRAINED with the serial and the key of the client's outstanding fence, on a channel in SERVICE, ends the fence and sends INSTALL
or REMOVE for its entry (R110), and the head of the queue is served (R109). Any other DRAINED is ignored. Serving a head takes it
from the queue, sends FENCE with the next fence serial, moves the entry on, and starts the fence timer (R108). That the row bytes of
a whole-bank key are not read is the model's reading (log 14), and that nothing changes when the oldest frame held is no DRAINED is
its choice (log 2). -/
def Obligations.DrainedEndsTheFence : Prop :=
  (∀ (s : State) (l : ChanId) (f : RxFrame) (serial scope : Byte) (bank row : Nat), s.HoldsFrame l f → f.is 0x86#8 = true →
    FitsBytes 1 bank → FitsBytes 3 row → f.payload = serial :: (be1 bank ++ [scope] ++ be3 row) →
    let b := { s.body with link := s.body.link.set l { s.body.link[l] with rx := s.body.link[l].rx.tail } }
    let agrees := fun (o : Fence) => o.serial = serial ∧ o.bank = bank ∧ o.row = if scope = 0#8 then some row else none
    ((b.chan[l].state ≠ .service ∨ ∀ f : Fin 8, f.val = l.val → ∀ o, b.fence[f].out = some o → ¬agrees o) →
      exec (.drained l) s = .next { s with body := b }) ∧
    ∀ (k : Fin 8) (o : Fence), k.val = l.val → b.chan[l].state = .service → b.fence[k].out = some o → agrees o →
      let b1 := { b with fence := b.fence.set k { b.fence[k] with out := none } }
      exec (.drained l) s = .next { s with body := Body.finish s.env (Body.serveHead s.env
        (if o.purpose = .install then b1.sendInstall o.entry false else b1.sendRemove o.entry) l) }) ∧
  (∀ (s : State) (l : ChanId), (∀ f, s.HoldsFrame l f → f.is 0x86#8 = false) → exec (.drained l) s = .next s) ∧
  (∀ (env : Env) (b : Body) (c : ChanId),
    ((b.chan[c].state ≠ .service ∨ ∀ f : Fin 8, f.val = c.val → b.fence[f].out ≠ none ∨ b.fence[f].queue = []) →
      b.serveHead env c = b) ∧
    ∀ (f : Fin 8) e es r, f.val = c.val → b.chan[c].state = .service → b.fence[f] = ⟨e :: es, none⟩ → b.dir[e].live = some r →
      b.serveHead env c =
        let k := b.link[c]
        let removal := r.st = .retireWait
        Body.offer
          { b with
            fence := b.fence.set f ⟨es, some ⟨k.fenceSerial, e, r.key.bank, r.key.row, if removal then .remove else .install,
              env.items.fenceTimeout⟩⟩
            link := b.link.set c { k with fenceSerial := k.fenceSerial + 1#8 }
            dir := b.dir.set e ⟨b.dir[e].gen + 1#8, some { r with st := if removal then .retireFencing else .fencing }⟩ }
          c (.fence k.fenceSerial r.key.bank r.key.row) .none) ∧
  ∀ (b : Body) (e : EntryNo) (r : Live), b.dir[e].live = some r →
    let moved := fun st => { b with dir := b.dir.set e ⟨b.dir[e].gen + 1#8, some { r with st := st }⟩ }
    (∀ x resync, r.repl = some x → b.sendInstall e resync = (moved .installing).offer r.key.chan
      (.install r.key.bank r.key.row x) (.directory e (b.dir[e].gen + 1#8) resync)) ∧
    b.sendRemove e = (moved .removing).offer r.key.chan (.remove r.key.bank r.key.row)
      (.directory e (b.dir[e].gen + 1#8) false)

/-- A REPORT for an ordinary row of a channel in SERVICE, RESYNC or READY, in a bank that is not excluded, is scored (R48): added to
the row's record (R49), or put in the lowest free record (R50), or, in a full table, in place of the lowest score when that is
below its weight, with WATCH_FULL raised (R51). The trigger is then evaluated. At a decay every score becomes 7/8 of itself,
rounded down, and a record that reaches 0 is freed (R52, R53). That nothing changes when the oldest frame held is no REPORT, or when
no decay is due, is the model's choice (log 2). -/
def Obligations.ReportsAreScoredAndDecay : Prop :=
  (∀ (s : State) (l : ChanId) (f : RxFrame) (bank row : Nat) (kind : Byte), s.HoldsFrame l f → f.is 0x87#8 = true →
    FitsBytes 1 bank → FitsBytes 3 row → f.payload = be1 bank ++ be3 row ++ [kind] →
    let b := { s.body with link := s.body.link.set l { s.body.link[l] with rx := s.body.link[l].rx.tail } }
    let acted := b.chan[l].state ∈ [.service, .resync, .ready] ∧
      (∃ v, b.inv[l] = some v ∧ v.geo.ordinary bank row = true) ∧ ¬BankExcluded b l bank
    let weight := if kind = 0#8 then 8 else if kind = 1#8 then 32 else 512
    let ue := decide (kind = 2#8)
    let fresh : Watch := ⟨l, bank, row, weight, if ue then 0 else 1, ue⟩
    let put := fun (b' : Body) (i : WatchNo) (w : Watch) => exec (.report l) s = .next { s with
      body := Body.finish s.env (Body.trigger s.env false { b' with watch := b'.watch.set i (some w) }
        ⟨l, bank, some row⟩ w.score) }
    let watches := fun (i : WatchNo) (w : Watch) => b.watch[i] = some w ∧ w.chan = l ∧ w.bank = bank ∧ w.row = row
    (¬acted → exec (.report l) s = .next { s with body := b }) ∧
    (acted → (∀ i w, watches i w → (∀ j v, watches j v → j = i) → put b i
      { w with
        score := if w.score + weight > 1023 then 1023 else w.score + weight
        correctable := if ue then w.correctable else if w.correctable < 255 then w.correctable + 1 else 255
        ueSeen := w.ueSeen || ue }) ∧
      ((∀ i w, ¬watches i w) →
        (∀ i : WatchNo, b.watch[i] = none → (∀ j : WatchNo, j < i → b.watch[j] ≠ none) → put b i fresh) ∧
        ∀ (i : WatchNo) (w : Watch), (∀ j : WatchNo, b.watch[j] ≠ none) → b.watch[i] = some w →
          (∀ (j : WatchNo) (v : Watch), b.watch[j] = some v → w.score ≤ v.score ∧ (j < i → w.score < v.score)) →
          let full := b.raise .watchFull (.channel l)
          (w.score < weight → put full i fresh) ∧
          (weight ≤ w.score → exec (.report l) s = .next { s with body := full.finish s.env })))) ∧
  (∀ (s : State) (l : ChanId), (∀ f, s.HoldsFrame l f → f.is 0x87#8 = false) → exec (.report l) s = .next s) ∧
  ∀ s : State, (s.running = true → s.decayTimer = 0 → ∃ t, exec .decay s = .next t ∧
      t = { s with decayTimer := s.items.decayPeriod * 1000, body := { s.body with watch := t.body.watch } } ∧
      ∀ i : WatchNo, (s.body.watch[i] = none → t.body.watch[i] = none) ∧
        ∀ w, s.body.watch[i] = some w → (7 * w.score / 8 = 0 → t.body.watch[i] = none) ∧
          (7 * w.score / 8 ≠ 0 → t.body.watch[i] = some { w with score := 7 * w.score / 8 })) ∧
    (¬(s.running = true ∧ s.decayTimer = 0) → exec .decay s = .next s)

/-- The trigger asks for a repair when the score is at or above REPAIR_THRESHOLD, the channel is in SERVICE, and the row has no entry
or an ACTIVE one with a target (R55). A full fence queue ends it in silence, and a full directory or the lack of a target raises
UNREPAIRABLE. Otherwise the entry is made or retargeted, PENDING, and goes on its way (R56, R57): into the fence queue of a BUFFER
channel, or into an INSTALL sent at once (R114). On entry to SERVICE the channel's records are swept in ascending index (R58). -/
def Obligations.TriggerRepairsRows : Prop :=
  (∀ (env : Env) (sweep : Bool) (b : Body) (k : Key) (score : Nat),
    let c := k.chan
    let asks := env.items.repairThreshold ≤ score ∧ b.chan[c].state = .service
    let full := ∃ f : Fin 8, f.val = c.val ∧ 32 ≤ b.fence[f].queue.length
    let t := b.trigger env sweep k score
    let unrepairable := b.raise .unrepairable (.key k)
    (¬asks ∨ full → t = b) ∧
    (asks → ¬full →
      ((∀ (e : EntryNo) (r : Live), b.dir[e].live = some r → r.key ≠ k) →
        ((∀ e, ¬LowestFree b e) ∨ b.choose env c k.bank = none → t = unrepairable) ∧
        ∀ e x, LowestFree b e → b.choose env c k.bank = some x → t = Body.onward env sweep
          { b with
            inv := b.inv.set c (b.inv[c].map (·.take x))
            dir := b.dir.set e ⟨b.dir[e].gen + 1#8, some ⟨.pending, k, some x, none, .score, (b.inv[c].map (·.tag)).getD 0#16, 0⟩⟩ } c e) ∧
      ∀ (e : EntryNo) (r : Live), b.dir[e].live = some r → r.key = k →
        (∀ (d : EntryNo) (q : Live), b.dir[d].live = some q → q.key = k → d = e) →
        let acts := r.st = .active ∧ ∃ y, r.repl = some (.target y)
        (¬acts → t = b) ∧ (acts → b.retarget env e none = none → t = unrepairable) ∧
        ∀ b1, acts → b.retarget env e none = some b1 → t = b1.onward env sweep c e)) ∧
  (∀ (env : Env) (b : Body) (c : ChanId) (e : EntryNo),
    (8 ≤ c.val → ∀ sweep, b.onward env sweep c e = b.sendInstall e false) ∧
    ∀ f : Fin 8, f.val = c.val →
      let joined := { b with fence := b.fence.set f { b.fence[f] with queue := b.fence[f].queue ++ [e] } }
      b.onward env true c e = joined ∧ b.onward env false c e = joined.serveHead env c) ∧
  ∀ (env : Env) (b : Body) (c : ChanId), b.enterService env c = Body.serveHead env
    (((List.finRange 256).foldl fun (x : Body) (i : WatchNo) => match x.watch[i] with
      | none => x
      | some w => if w.chan = c ∧ x.excluded c w.bank = false
          then x.trigger env true ⟨c, w.bank, some w.row⟩ w.score else x)
      { b with chan := b.chan.set c { b.chan[c] with
        state := .service, phase := none, planPos := none, step := none, admission := .none, releaseOut := false
        installPos := none, walkPos := none, awaited := none, linkWait := none, geomWait := none, stepTimer := none } }) c

/-- A QUERY is answered with one ROW_STATUS that echoes its bank and row, with the status that the first line of R146 gives. That a
pool-region row of an excluded bank is NORMAL, where R41 says EXCLUDED, is the model's reading (log 29). When the oldest frame held is
no QUERY nothing changes: that is the model's choice (log 2). -/
def Obligations.QueryIsAnswered : Prop :=
  (∀ (s : State) (l : ChanId) (f : RxFrame) (bank row : Nat), s.HoldsFrame l f → f.is 0x88#8 = true →
    FitsBytes 1 bank → FitsBytes 3 row → f.payload = be1 bank ++ be3 row →
    let b := { s.body with link := s.body.link.set l { s.body.link[l] with rx := s.body.link[l].rx.tail } }
    exec (.query l) s = .next { s with body := Body.finish s.env (b.offer l (.rowStatus bank row (b.rowStatus l bank row)) .none) }) ∧
  (∀ (s : State) (l : ChanId), (∀ f, s.HoldsFrame l f → f.is 0x88#8 = false) → exec (.query l) s = .next s) ∧
  ∀ (b : Body) (c : ChanId) (bank row : Nat),
    let ordinary := ∃ v, b.inv[c] = some v ∧ v.geo.ordinary bank row = true
    let entry := fun (r : Live) => ∃ e : EntryNo, b.dir[e].live = some r ∧ r.key = ⟨c, bank, some row⟩ ∧
      ∀ (d : EntryNo) (q : Live), b.dir[d].live = some q → q.key = r.key → d = e
    let inForce := fun (r : Live) => r.st ∈ [.active, .refill, .retireWait, .removing] ∧ r.repl ≠ none
    let status := b.rowStatus c bank row
    let fromWatch := fun (i : WatchNo) (w : Watch) => b.watch[i] = some w ∧ w.chan = c ∧ w.bank = bank ∧ w.row = row
    (¬ordinary → status = .normal) ∧ (ordinary → BankExcluded b c bank → status = .excluded) ∧
    (ordinary → ¬BankExcluded b c bank →
      (∀ r, entry r → r.st ∈ [.fencing, .retireFencing] → status = .fenced) ∧
      (∀ r, entry r → inForce r →
        (r.repl = some .exclude → status = .excluded) ∧
        (∀ g i, r.repl = some (.target (.device g i)) → status = .repairedDevice g i) ∧
        ∀ k v, r.repl = some (.target (.pool k)) → b.inv[c] = some v →
          status = .repairedPool v.geo.poolBank (v.geo.rowsPerBank - v.geo.poolRows + k)) ∧
      ((∀ (e : EntryNo) (r : Live), b.dir[e].live = some r → r.key = ⟨c, bank, some row⟩ →
          r.st ∈ [.unresolved, .pending, .installing]) →
        (∀ i w, fromWatch i w → (∀ j v, fromWatch j v → j = i) → status = .watched w.score) ∧
        ((∀ i w, ¬fromWatch i w) → status = .normal)))

/-! ### Timers of channels and fences -/

/-- The link wait, the GEOMETRY wait and the step timer fail their channel in TEST when they run out: ABSENT (R66), GEOMETRY (R67)
and STEP_TIMEOUT (R68). At its budget a channel changes nothing but BUDGET_EXPIRED (R178). An expiry that is not due changes
nothing (log 2). -/
def Obligations.RunTimersFailTheChannel : Prop :=
  ∀ (s : State) (c : ChanId),
    let ch := s.body.chan[c]
    let live := s.running = true ∧ ch.state = .test
    let fails := fun cause => (.next { s with body := Body.finish s.env (s.body.failChannel s.env c cause) } : Result)
    (live → ch.linkWait = some 0 → exec (.linkWaitExpiry c) s = fails .absent) ∧
    (live → ch.geomWait = some 0 → exec (.geometryWaitExpiry c) s = fails .geometry) ∧
    (live → ch.stepTimer = some 0 → exec (.stepTimerExpiry c) s = fails .stepTimeout) ∧
    (live → s.items.bootBudget ≤ s.body.elapsed s.env c →
      exec (.budgetExpiry c) s = .next { s with body := s.body.finish s.env }) ∧
    (¬(live ∧ ch.linkWait = some 0) → exec (.linkWaitExpiry c) s = .next s) ∧
    (¬(live ∧ ch.geomWait = some 0) → exec (.geometryWaitExpiry c) s = .next s) ∧
    (¬(live ∧ ch.stepTimer = some 0) → exec (.stepTimerExpiry c) s = .next s) ∧
    (¬(live ∧ s.items.bootBudget ≤ s.body.elapsed s.env c) → exec (.budgetExpiry c) s = .next s) ∧
    ∀ t, ch.runStart = some t → s.body.elapsed s.env c = (s.now - t).toNat

/-- A fence whose timer runs out ends without its DRAINED: LIFT is sent with its serial, an install's entry is freed, a removal's
is ACTIVE again with its watch record freed, FENCE_TIMEOUT is raised with the key, and the head of the queue is served (R111). An
expiry that is not due changes nothing, which is the model's choice (log 2). -/
def Obligations.FenceTimeoutLiftsTheFence : Prop :=
  (∀ (s : State) (c : ChanId) (k : Fin 8) (f : Fence), k.val = c.val → s.running = true → s.body.fence[k].out = some f →
    f.timer = 0 →
    let b := s.body.offer c (.lift f.serial) (.lift f.serial)
    let b1 := (if f.purpose = .install then b.freeEntry f.entry else b.activate f.entry).raise .fenceTimeout
      (.key ⟨c, f.bank, f.row⟩)
    exec (.fenceTimerExpiry c) s = .next { s with body := Body.finish s.env (Body.serveHead s.env
      { b1 with fence := b1.fence.set k { b1.fence[k] with out := none } } c) }) ∧
  (∀ (s : State) (c : ChanId), (s.running = false ∨ ∀ k : Fin 8, k.val = c.val →
    ∀ f, s.body.fence[k].out = some f → f.timer ≠ 0) → exec (.fenceTimerExpiry c) s = .next s) ∧
  (∀ (b : Body) (e : EntryNo) (r : Live), b.dir[e].live = some r → ∃ b', b.activate e = b' ∧
    b' = { b with dir := b.dir.set e ⟨b.dir[e].gen + 1#8, some { r with st := .active }⟩, watch := b'.watch } ∧
    ∀ i : WatchNo, b'.watch[i] = match b.watch[i] with
      | none => none
      | some w => if w.chan = r.key.chan ∧ w.bank = r.key.bank ∧ some w.row = r.key.row then none else some w) ∧
  ∀ (b : Body) (e : EntryNo) (r : Live), b.dir[e].live = some r → ∃ b', b.freeEntry e = b' ∧
    b' = { b with
      dir := b.dir.set e ⟨b.dir[e].gen + 1#8, none⟩, chan := b'.chan, fence := b'.fence
      inv := b.inv.set r.key.chan (b.inv[r.key.chan].map (·.giveBack r)) } ∧
    (∀ f : Fin 8, b'.fence[f] = if f.val = r.key.chan.val then { b.fence[f] with queue := b.fence[f].queue.filter (· != e) }
      else b.fence[f]) ∧
    ∀ c : ChanId, b'.chan[c] = if c = r.key.chan
      then { b.chan[c] with repaired := b.chan[c].repaired.filter fun k => ¬(k.bank = r.key.bank ∧ some k.row = r.key.row) }
      else b.chan[c]

/-! ### What the commands share -/

/-- Entry to FAILED (R85): the cause is recorded, HALT is sent from TEST, a fence is lifted (R118), the waits and the step are gone,
the channel is settled (R21), CHANNEL_FAILED is raised, and units it held return to the arbiter, which scans (R104). A channel
already FAILED is as before. That the counts and lists of a run are kept is the model's reading (log 18). -/
def Obligations.FailureSettlesTheChannel : Prop :=
  (∀ (b : Body) (c : ChanId), Settled (· = c) b (b.settle c)) ∧
  ∀ (env : Env) (b : Body) (c : ChanId) (cause : Cause),
    let ch := b.chan[c]
    (ch.state = .failed → b.failChannel env c cause = b) ∧
    (ch.state ≠ .failed → ∀ b2 : Body,
      let b1 := if ch.state = .test then b.offer c .halt .none else b
      let lifted := fun (k : Fin 8) (f : Fence) => { b1.offer c (.lift f.serial) (.lift f.serial) with
        fence := b.fence.set k { b.fence[k] with out := none } }
      ((∃ k : Fin 8, k.val = c.val ∧ ∃ f, b.fence[k].out = some f ∧ b2 = lifted k f) ∨
        ((∀ k : Fin 8, k.val = c.val → b.fence[k].out = none) ∧ b2 = b1)) →
      ∃ b3, Settled (· = c) { b2 with chan := b2.chan.set c { ch with
          state := .failed, cause := some cause, phase := none, planPos := none, step := none, admission := .none
          releaseOut := false, installPos := none, walkPos := none, awaited := none, linkWait := none, geomWait := none
          stepTimer := none } } b3 ∧
        let b4 := b3.raise .channelFailed (.failed c cause)
        b.failChannel env c cause = if ch.admission.isHeld then b4.scan env else b4)

/-- A target is chosen in the order of R36: in TEST with DEVICE_SPARES_USE the lowest FREE spare of the bank's group, then the lowest
FREE pool slot, then on a BUFFER channel a row exclusion while fewer than 32 are held. Taking, marking and returning follow R16,
R18, R30, R31 and R32. A retarget marks the old target and makes the entry PENDING with the new one (R16); a conversion makes it
a row exclusion (R17). In TEST a retarget is counted (R79), or fails the channel when nothing is left (R37). A FAIL for a row
with no entry makes one and counts its bank's tally (R38); past BANK_FAIL_LIMIT a TABLE channel fails and a BUFFER bank is
excluded whole (R39, R40). That the whole-bank entry is created before the bank's other entries are freed, as R40 says and R3 does
not, is the model's reading (log 26). -/
def Obligations.TargetsAreChosenMarkedAndReturned : Prop :=
  (∀ (env : Env) (b : Body) (c : ChanId) (bank : Nat),
    (b.inv[c] = none → b.choose env c bank = none) ∧
    ∀ v, b.inv[c] = some v →
      let g := bank / v.geo.banksPerGroup
      let spare := fun i => b.chan[c].state = .test ∧ env.items.deviceSparesUse = 1 ∧ v.spare g i = some .free
      let slot := fun k => v.slots[k]? = some .free
      (∀ i, Least spare i → b.choose env c bank = some (.target (.device g i))) ∧
      ((∀ i, ¬spare i) → (∀ k, Least slot k → b.choose env c bank = some (.target (.pool k))) ∧
        ((∀ k, ¬slot k) → b.choose env c bank = if c.val < 8 ∧ v.exclusions < 32 then some .exclude else none))) ∧
  (∀ (v : Inventory) (k : Nat) (r : Live), v.take (.target (.pool k)) = { v with slots := v.slots.set k .used } ∧
    v.spoil (.pool k) = { v with slots := v.slots.set k .bad } ∧ v.take .exclude = { v with exclusions := v.exclusions + 1 } ∧
    (r.repl = some (.target (.pool k)) → v.giveBack r = { v with slots := v.slots.set k .free }) ∧
    (r.repl = some .exclude → r.key.row ≠ none → v.giveBack r = { v with exclusions := v.exclusions - 1 }) ∧
    (r.repl = some .exclude → r.key.row = none → v.giveBack r = v) ∧ (r.repl = none → v.giveBack r = v)) ∧
  (∀ (v : Inventory) (g i : Nat), v.spare g i = v.spares[g]?.bind (·[i]?)) ∧
  (∀ (v : Inventory) (g i : Nat) (r : Live), let marks := fun (w : Inventory) (st : SpareState) =>
      w = { v with spares := w.spares } ∧ ∀ h j, w.spare h j =
        if h = g ∧ j = i then (v.spare h j).map fun _ => st else v.spare h j
    marks (v.take (.target (.device g i))) .used ∧ marks (v.spoil (.device g i)) .spent ∧
    (r.repl = some (.target (.device g i)) →
      marks (v.giveBack r) (if r.st = .pending ∨ r.st = .fencing then .free else .spent))) ∧
  (∀ (env : Env) (b : Body) (e : EntryNo) (r : Live) (t : Target) (round : Option Nat), b.dir[e].live = some r →
    r.repl = some (.target t) →
    let c := r.key.chan
    let moved := fun (x : Replacement) (n : Nat) => { b with
      inv := b.inv.set c (b.inv[c].map fun v => (v.take x).spoil t)
      chan := b.chan.set c { b.chan[c] with
        repaired := b.chan[c].repaired.filter fun k => ¬(k.bank = r.key.bank ∧ some k.row = r.key.row) }
      dir := b.dir.set e ⟨b.dir[e].gen + 1#8, some { r with st := .pending, repl := some x, round := n }⟩ }
    (b.choose env c r.key.bank = none → b.retarget env e round = none ∧
      ∀ d, b.testRetarget env d e round = b.failChannel env d .unrepairable) ∧
    (∀ x, b.choose env c r.key.bank = some x → b.retarget env e round = some (moved x (round.getD r.round)) ∧
      ∀ d, b.testRetarget env d e round = (moved x (round.getD r.round)).countRepair d) ∧
    ∀ n, b.convert e n = moved .exclude n) ∧
  (∀ (b : Body) (c : ChanId), b.countRepair c = { b with chan := b.chan.set c { b.chan[c] with
    repairs := if b.chan[c].repairs < 65535 then b.chan[c].repairs + 1 else 65535 } }) ∧
  ∀ (env : Env) (b : Body) (k : Key), let c := k.chan
    ((∀ e, ¬LowestFree b e) → b.failNew env k = b.failChannel env c .dirFull) ∧
    ∀ e, LowestFree b e →
      (b.choose env c k.bank = none → b.failNew env k = b.failChannel env c .unrepairable) ∧
      ∀ x v, b.choose env c k.bank = some x → b.inv[c] = some v →
        let b1 := Body.countRepair { b with
          dir := b.dir.set e ⟨b.dir[e].gen + 1#8, some ⟨.pending, k, some x, none, .test, v.tag, 0⟩⟩
          inv := b.inv.set c (some { v.take x with tallies := v.tallies.modify k.bank (· + 1) }) } c
        let tally := ((v.tallies.modify k.bank (· + 1))[k.bank]?).getD 0
        (tally ≤ env.items.bankFailLimit → b.failNew env k = b1) ∧
        (env.items.bankFailLimit < tally → 8 ≤ c.val → b.failNew env k = b1.failChannel env c .bankLimit) ∧
        (env.items.bankFailLimit < tally → c.val < 8 →
          ((∀ d, ¬LowestFree b1 d) → b.failNew env k = b1.failChannel env c .dirFull) ∧
          ∀ d, LowestFree b1 d → b.failNew env k =
            ((List.finRange 1024).filter fun i => i != d && b1.dir[i].live.any fun q =>
                q.key.chan == c && q.key.bank == k.bank).foldl Body.freeEntry
              (Body.countRepair { b1 with
                dir := b1.dir.set d ⟨b1.dir[d].gen + 1#8, some ⟨.pending, ⟨c, k.bank, none⟩, some .exclude, none, .test, v.tag, 0⟩⟩ } c))

/-- A frame offered to a link that is UP joins its send queue, and with 176 frames there it is a send overflow (R137, R140). At the
end of every change no overflow is left: each link that met one leaves UP, counted twice over (R129), and its channel acts by
its state (R86). With none, only the level conditions change, and they always follow the state (R178, R179). That this is done at
the end of the change is the model's reading (log 11). -/
def Obligations.EndOfChangeClosesOverflows : Prop :=
  (∀ (b : Body) (c : ChanId) (m : Msg) (n : Note),
    let k := b.link[c]
    (k.state = .up → k.overflow = false → k.sendq.length < 176 →
      b.offer c m n = { b with link := b.link.set c { k with sendq := k.sendq ++ [⟨m, n⟩] } }) ∧
    (k.state = .up → k.overflow = false → 176 ≤ k.sendq.length →
      b.offer c m n = { b with link := b.link.set c { k with overflow := true } }) ∧
    (k.state ≠ .up ∨ k.overflow = true → b.offer c m n = b)) ∧
  ∀ (env : Env) (b : Body), let b' := b.finish env
    LevelsHold env b' ∧ NoOverflow b' ∧
    (NoOverflow b → b' = { b with att := b'.att } ∧ AttentionBut [] env b b') ∧
    ∀ l : ChanId, b.link[l].overflow = true →
      b'.link[l] = { b.link[l] with
        state := .training, rx := [], sendq := [], inflight := [], training := some 1, lane := some ⟨0#4, .init l⟩
        overflow := false
        counters := { b.link[l].counters with
          ackTimeouts := min (b.link[l].counters.ackTimeouts + 1) 65535
          sendOverflows := min (b.link[l].counters.sendOverflows + 1) 65535 } } ∧
      b'.chan[l].state = match b.chan[l].state with
        | .test | .ready => .failed
        | .idle => .down
        | .service | .resync => .lost
        | x => x

/-- A channel that is to run a step waits, and the arbiter visits the channels in ascending order (R102, R103). It admits each WAITING
one whose weight fits the free units and whose step, if SERIAL, meets no holder of its slot. The channel is then HELD, its step
takes the next token (R99), its timer starts, and RUN_STEP goes out with the parameters of R98 or of the slot (R68, R100). A
VERIFY round takes the whole REPAIRED list as its region (R73). -/
def Obligations.ArbiterAdmitsInOrder : Prop :=
  (∀ (env : Env) (b : Body) (c : ChanId) (k : StepKind) (sp : Spread), b.ask env c k sp =
    Body.scan env { b with chan := b.chan.set c { b.chan[c] with admission := .waiting ⟨k, sp⟩ } }) ∧
  (∀ (env : Env) (b : Body), b.scan env = (List.finRange 12).foldl (Body.visit env) b) ∧
  ∀ (env : Env) (b : Body) (c : ChanId),
    let ch := b.chan[c]
    let units := ((List.finRange 12).map fun d => if b.chan[d].admission.isHeld then (if d.val < 8 then 3 else 1) else 0).sum
    ((∀ a, ch.admission ≠ .waiting a) → b.visit env c = b) ∧
    ∀ k sp, ch.admission = .waiting ⟨k, sp⟩ →
      let fits := units + (if c.val < 8 then 3 else 1) ≤ env.items.powerCeiling ∧
        (sp = .serial → ∀ n, k = .plan n → ∀ (d : ChanId) sq, b.chan[d].admission ≠ .held ⟨.plan n, sq⟩)
      let started := fun region repaired => { b with chan := b.chan.set c { ch with
        admission := .held ⟨k, sp⟩, step := some ⟨k, ch.nextToken, region⟩, repaired := repaired
        nextToken := ch.nextToken + 1#8, stepTimer := some (env.items.stepTimeout * 1000) } }
      (¬fits → b.visit env c = b) ∧
      (fits →
        (k = .poolcheck → b.visit env c = (started [] ch.repaired).offer c
          (.runStep ch.nextToken .up .solid [.w0, .r0, .w1, .r1] 0 .pool) .none) ∧
        ((∃ n, k = .verify n) → b.visit env c = (started ch.repaired []).offer c
          (.runStep ch.nextToken .up .checker [.w1, .r1, .w0, .r0] 0 .repaired) .none) ∧
        ∀ n x, k = .plan n → env.plan[n] = some x → b.visit env c = (started [] ch.repaired).offer c
          (.runStep ch.nextToken x.direction x.background x.ops x.pause .main) .none)

/-- The phases of a run follow each other (R71, R72, R74, R76, R78, R80). The walk of the plan passes over EMPTY slots and slots
whose mask lacks the channel, skips and counts optional steps reached at or past BOOT_BUDGET, and asks for the first other step;
after the last slot it goes on to REPAIRINSTALL. -/
def Obligations.PhasesFollowEachOther : Prop :=
  ∀ (env : Env) (b : Body) (c : ChanId),
    let ch := b.chan[c]
    let with_ := fun (x : Channel) => { b with chan := b.chan.set c x }
    let open_ := fun (x : Body) => ∃ (e : EntryNo) (r : Live), x.dir[e].live = some r ∧ r.key.chan = c ∧
      (r.st = .pending ∨ r.st = .installing)
    let verifying := with_ { ch with phase := some .verify, verifyRound := ch.verifyRound + 1, roundFailed := false }
    let installs := fun ph => Body.continueInstalls (with_ { ch with phase := some ph, planPos := none, installPos := some 0 }) c
    (∀ v, b.inv[c] = some v →
      (v.geo.poolRows = 0 → b.enterPoolcheck env c = (with_ { ch with phase := some .poolcheck }).enterSeedInstall env c) ∧
      (v.geo.poolRows ≠ 0 → b.enterPoolcheck env c =
        (with_ { ch with phase := some .poolcheck }).ask env c .poolcheck .parallel)) ∧
    (open_ (installs .seedinstall) → b.enterSeedInstall env c = installs .seedinstall) ∧
    (¬open_ (installs .seedinstall) → b.enterSeedInstall env c = (installs .seedinstall).enterMain env c) ∧
    (open_ (installs .repairinstall) → b.enterRepairInstall env c = installs .repairinstall) ∧
    (¬open_ (installs .repairinstall) → b.enterRepairInstall env c = (installs .repairinstall).afterRepairInstall env c) ∧
    (ch.state ≠ .test ∨ open_ b ∨ ch.phase ∉ [some .seedinstall, some .repairinstall] → b.checkInstallPhase env c = b) ∧
    (ch.state = .test → ¬open_ b → ch.phase = some .seedinstall →
      b.checkInstallPhase env c = (with_ { ch with installPos := none }).enterMain env c) ∧
    (ch.state = .test → ¬open_ b → ch.phase = some .repairinstall →
      b.checkInstallPhase env c = (with_ { ch with installPos := none }).afterRepairInstall env c) ∧
    b.afterRepairInstall env c =
      (if ch.verifyRound < env.items.verifyRounds then b.enterVerify env c else b.enterReleasing env c) ∧
    (b.enterVerify env c = if ch.repaired = [] then verifying.enterReleasing env c
      else verifying.ask env c (.verify (ch.verifyRound + 1)) .parallel) ∧
    (env.items.autoRelease = 1 → b.enterReleasing env c = Body.offer
      (with_ { ch with phase := some .releasing, releaseOut := true }) c .release (.release .run false)) ∧
    (env.items.autoRelease ≠ 1 → b.enterReleasing env c = Body.raise (with_ { ch with
      state := .ready, phase := none, planPos := none, step := none, admission := .none, releaseOut := false
      installPos := none, walkPos := none, awaited := none, linkWait := none, geomWait := none
      stepTimer := none }) .testDone (.testDone c ch.skipped ch.repairs)) ∧
    b.enterMain env c = Body.walkPlan env c (List.finRange 16) (with_ { ch with phase := some .main }) ∧
    let past := env.items.bootBudget ≤ b.elapsed env c
    let skips := fun n : SlotNo => (env.plan[n].any fun x => x.mask.getLsbD c.val && !x.mandatory) && decide past
    let runs := fun (n : SlotNo) (x : PlanStep) =>
      env.plan[n] = some x ∧ x.mask.getLsbD c.val = true ∧ ¬(x.mandatory = false ∧ past)
    ∀ before : List SlotNo, (∀ n ∈ before, ∀ x, ¬runs n x) →
      Body.walkPlan env c before b = Body.enterRepairInstall env
        (with_ { ch with skipped := ch.skipped + before.countP skips }) c ∧
      ∀ n x after, runs n x → Body.walkPlan env c (before ++ n :: after) b =
        (with_ { ch with planPos := some n, skipped := ch.skipped + before.countP skips }).ask env c (.plan n) x.spread

/-! ### Properties that every step keeps -/

/-- The machine right after reset has every property of Inv. -/
def Obligations.ResetMeetsInv : Prop := Inv State.reset

/-- Whatever the next command is, a step keeps every configuration item in its range (R166), every score in its range with one record
for each row (R47), one entry for each key with no other beside a whole-bank entry (R3), and each port's slots as R151 gives. -/
def Obligations.StepKeepsTablesSound : Prop :=
  ∀ s t : State, Inv s → step s = .next t →
    ItemsInRange t.items ∧ WatchKept t.body ∧ KeysDistinct t.body ∧ PortKept t.portA ∧ PortKept t.portB

/-- Whatever the next command is, a step keeps the units in use at or below POWER_CEILING (R101), every queue and list within its
capacity (R107, R133, R137, R141), no overflow open (R140), and a link that is not UP empty (R127, R129). -/
def Obligations.StepKeepsQueuesAndPower : Prop :=
  ∀ s t : State, Inv s → step s = .next t →
    PowerKept t ∧ QueuesBounded t.body ∧ NoOverflow t.body ∧ EmptyWhenNotUp t.body
end

