-- ==== Sys2Proof/Laws/State.lean ====
section
/-! SUPPORT. What each update of the state leaves as it was and what it writes, one lemma per field and update, so that no proof
unfolds a record update. -/

namespace Sys2Proof.Laws

open Sys2Proof.Machine

/-! ### Updates of the blocks -/

@[simp] theorem modChan_dir (b : Body) (c : ChanId) (f : Channel → Channel) : (b.modChan c f).dir = b.dir := rfl
@[simp] theorem modChan_inv (b : Body) (c : ChanId) (f : Channel → Channel) : (b.modChan c f).inv = b.inv := rfl
@[simp] theorem modChan_watch (b : Body) (c : ChanId) (f : Channel → Channel) : (b.modChan c f).watch = b.watch := rfl
@[simp] theorem modChan_link (b : Body) (c : ChanId) (f : Channel → Channel) : (b.modChan c f).link = b.link := rfl
@[simp] theorem modChan_fence (b : Body) (c : ChanId) (f : Channel → Channel) : (b.modChan c f).fence = b.fence := rfl
@[simp] theorem modChan_att (b : Body) (c : ChanId) (f : Channel → Channel) : (b.modChan c f).att = b.att := rfl

@[simp] theorem modLink_dir (b : Body) (c : ChanId) (f : Link → Link) : (b.modLink c f).dir = b.dir := rfl
@[simp] theorem modLink_inv (b : Body) (c : ChanId) (f : Link → Link) : (b.modLink c f).inv = b.inv := rfl
@[simp] theorem modLink_watch (b : Body) (c : ChanId) (f : Link → Link) : (b.modLink c f).watch = b.watch := rfl
@[simp] theorem modLink_chan (b : Body) (c : ChanId) (f : Link → Link) : (b.modLink c f).chan = b.chan := rfl
@[simp] theorem modLink_fence (b : Body) (c : ChanId) (f : Link → Link) : (b.modLink c f).fence = b.fence := rfl
@[simp] theorem modLink_att (b : Body) (c : ChanId) (f : Link → Link) : (b.modLink c f).att = b.att := rfl

@[simp] theorem modInv_dir (b : Body) (c : ChanId) (f : Inventory → Inventory) : (b.modInv c f).dir = b.dir := rfl
@[simp] theorem modInv_watch (b : Body) (c : ChanId) (f : Inventory → Inventory) : (b.modInv c f).watch = b.watch := rfl
@[simp] theorem modInv_chan (b : Body) (c : ChanId) (f : Inventory → Inventory) : (b.modInv c f).chan = b.chan := rfl
@[simp] theorem modInv_link (b : Body) (c : ChanId) (f : Inventory → Inventory) : (b.modInv c f).link = b.link := rfl
@[simp] theorem modInv_fence (b : Body) (c : ChanId) (f : Inventory → Inventory) : (b.modInv c f).fence = b.fence := rfl
@[simp] theorem modInv_att (b : Body) (c : ChanId) (f : Inventory → Inventory) : (b.modInv c f).att = b.att := rfl

@[simp] theorem modCond_dir (b : Body) (k : Condition) (f : CondRec → CondRec) : (b.modCond k f).dir = b.dir := rfl
@[simp] theorem modCond_inv (b : Body) (k : Condition) (f : CondRec → CondRec) : (b.modCond k f).inv = b.inv := rfl
@[simp] theorem modCond_watch (b : Body) (k : Condition) (f : CondRec → CondRec) : (b.modCond k f).watch = b.watch := rfl
@[simp] theorem modCond_chan (b : Body) (k : Condition) (f : CondRec → CondRec) : (b.modCond k f).chan = b.chan := rfl
@[simp] theorem modCond_link (b : Body) (k : Condition) (f : CondRec → CondRec) : (b.modCond k f).link = b.link := rfl
@[simp] theorem modCond_fence (b : Body) (k : Condition) (f : CondRec → CondRec) : (b.modCond k f).fence = b.fence := rfl

@[simp] theorem raise_dir (b : Body) (k : Condition) (v : CondValue) : (b.raise k v).dir = b.dir := rfl
@[simp] theorem raise_inv (b : Body) (k : Condition) (v : CondValue) : (b.raise k v).inv = b.inv := rfl
@[simp] theorem raise_watch (b : Body) (k : Condition) (v : CondValue) : (b.raise k v).watch = b.watch := rfl
@[simp] theorem raise_chan (b : Body) (k : Condition) (v : CondValue) : (b.raise k v).chan = b.chan := rfl
@[simp] theorem raise_link (b : Body) (k : Condition) (v : CondValue) : (b.raise k v).link = b.link := rfl
@[simp] theorem raise_fence (b : Body) (k : Condition) (v : CondValue) : (b.raise k v).fence = b.fence := rfl

@[simp] theorem changeEntry_inv (b : Body) (e : EntryNo) (l : Option Live) : (b.changeEntry e l).inv = b.inv := rfl
@[simp] theorem changeEntry_watch (b : Body) (e : EntryNo) (l : Option Live) : (b.changeEntry e l).watch = b.watch := rfl
@[simp] theorem changeEntry_chan (b : Body) (e : EntryNo) (l : Option Live) : (b.changeEntry e l).chan = b.chan := rfl
@[simp] theorem changeEntry_link (b : Body) (e : EntryNo) (l : Option Live) : (b.changeEntry e l).link = b.link := rfl
@[simp] theorem changeEntry_fence (b : Body) (e : EntryNo) (l : Option Live) : (b.changeEntry e l).fence = b.fence := rfl
@[simp] theorem changeEntry_att (b : Body) (e : EntryNo) (l : Option Live) : (b.changeEntry e l).att = b.att := rfl

@[simp] theorem createEntry_inv (b : Body) (e : EntryNo) (l : Live) : (b.createEntry e l).inv = b.inv := rfl
@[simp] theorem createEntry_watch (b : Body) (e : EntryNo) (l : Live) : (b.createEntry e l).watch = b.watch := rfl
@[simp] theorem createEntry_chan (b : Body) (e : EntryNo) (l : Live) : (b.createEntry e l).chan = b.chan := rfl
@[simp] theorem createEntry_link (b : Body) (e : EntryNo) (l : Live) : (b.createEntry e l).link = b.link := rfl
@[simp] theorem createEntry_fence (b : Body) (e : EntryNo) (l : Live) : (b.createEntry e l).fence = b.fence := rfl
@[simp] theorem createEntry_att (b : Body) (e : EntryNo) (l : Live) : (b.createEntry e l).att = b.att := rfl

@[simp] theorem setWatch_dir (b : Body) (i : WatchNo) (w : Watch) : (b.setWatch i w).dir = b.dir := rfl
@[simp] theorem setWatch_inv (b : Body) (i : WatchNo) (w : Watch) : (b.setWatch i w).inv = b.inv := rfl
@[simp] theorem setWatch_chan (b : Body) (i : WatchNo) (w : Watch) : (b.setWatch i w).chan = b.chan := rfl
@[simp] theorem setWatch_link (b : Body) (i : WatchNo) (w : Watch) : (b.setWatch i w).link = b.link := rfl
@[simp] theorem setWatch_fence (b : Body) (i : WatchNo) (w : Watch) : (b.setWatch i w).fence = b.fence := rfl
@[simp] theorem setWatch_att (b : Body) (i : WatchNo) (w : Watch) : (b.setWatch i w).att = b.att := rfl

@[simp] theorem dropWatch_dir (b : Body) (p : Watch → Bool) : (b.dropWatch p).dir = b.dir := rfl
@[simp] theorem dropWatch_inv (b : Body) (p : Watch → Bool) : (b.dropWatch p).inv = b.inv := rfl
@[simp] theorem dropWatch_chan (b : Body) (p : Watch → Bool) : (b.dropWatch p).chan = b.chan := rfl
@[simp] theorem dropWatch_link (b : Body) (p : Watch → Bool) : (b.dropWatch p).link = b.link := rfl
@[simp] theorem dropWatch_fence (b : Body) (p : Watch → Bool) : (b.dropWatch p).fence = b.fence := rfl
@[simp] theorem dropWatch_att (b : Body) (p : Watch → Bool) : (b.dropWatch p).att = b.att := rfl

@[simp] theorem offer_dir (b : Body) (c : ChanId) (m : Msg) (n : Note) : (b.offer c m n).dir = b.dir := rfl
@[simp] theorem offer_inv (b : Body) (c : ChanId) (m : Msg) (n : Note) : (b.offer c m n).inv = b.inv := rfl
@[simp] theorem offer_watch (b : Body) (c : ChanId) (m : Msg) (n : Note) : (b.offer c m n).watch = b.watch := rfl
@[simp] theorem offer_chan (b : Body) (c : ChanId) (m : Msg) (n : Note) : (b.offer c m n).chan = b.chan := rfl
@[simp] theorem offer_fence (b : Body) (c : ChanId) (m : Msg) (n : Note) : (b.offer c m n).fence = b.fence := rfl
@[simp] theorem offer_att (b : Body) (c : ChanId) (m : Msg) (n : Note) : (b.offer c m n).att = b.att := rfl

@[simp] theorem popFrame_dir (b : Body) (c : ChanId) : (b.popFrame c).dir = b.dir := rfl
@[simp] theorem popFrame_inv (b : Body) (c : ChanId) : (b.popFrame c).inv = b.inv := rfl
@[simp] theorem popFrame_watch (b : Body) (c : ChanId) : (b.popFrame c).watch = b.watch := rfl
@[simp] theorem popFrame_chan (b : Body) (c : ChanId) : (b.popFrame c).chan = b.chan := rfl
@[simp] theorem popFrame_fence (b : Body) (c : ChanId) : (b.popFrame c).fence = b.fence := rfl
@[simp] theorem popFrame_att (b : Body) (c : ChanId) : (b.popFrame c).att = b.att := rfl

@[simp] theorem modFence_dir (b : Body) (c : ChanId) (f : FenceUnit → FenceUnit) : (b.modFence c f).dir = b.dir := by
  unfold Body.modFence; split <;> rfl
@[simp] theorem modFence_inv (b : Body) (c : ChanId) (f : FenceUnit → FenceUnit) : (b.modFence c f).inv = b.inv := by
  unfold Body.modFence; split <;> rfl
@[simp] theorem modFence_watch (b : Body) (c : ChanId) (f : FenceUnit → FenceUnit) : (b.modFence c f).watch = b.watch := by
  unfold Body.modFence; split <;> rfl
@[simp] theorem modFence_chan (b : Body) (c : ChanId) (f : FenceUnit → FenceUnit) : (b.modFence c f).chan = b.chan := by
  unfold Body.modFence; split <;> rfl
@[simp] theorem modFence_link (b : Body) (c : ChanId) (f : FenceUnit → FenceUnit) : (b.modFence c f).link = b.link := by
  unfold Body.modFence; split <;> rfl
@[simp] theorem modFence_att (b : Body) (c : ChanId) (f : FenceUnit → FenceUnit) : (b.modFence c f).att = b.att := by
  unfold Body.modFence; split <;> rfl

/-! ### What an update writes -/

theorem modChan_same (b : Body) (c : ChanId) (f : Channel → Channel) : (b.modChan c f).chan[c] = f b.chan[c] := by
  simp [Body.modChan]

theorem modChan_other (b : Body) {c d : ChanId} (f : Channel → Channel) (h : c ≠ d) :
    (b.modChan c f).chan[d] = b.chan[d] := by
  have : c.val ≠ d.val := fun e => h (Fin.ext e)
  simp [Body.modChan, Vector.getElem_set_ne, this]

theorem modLink_same (b : Body) (c : ChanId) (f : Link → Link) : (b.modLink c f).link[c] = f b.link[c] := by
  simp [Body.modLink]

theorem modLink_other (b : Body) {c d : ChanId} (f : Link → Link) (h : c ≠ d) : (b.modLink c f).link[d] = b.link[d] := by
  have : c.val ≠ d.val := fun e => h (Fin.ext e)
  simp [Body.modLink, Vector.getElem_set_ne, this]

theorem modInv_same (b : Body) (c : ChanId) (f : Inventory → Inventory) :
    (b.modInv c f).inv[c] = b.inv[c].map f := by
  simp [Body.modInv]

theorem modInv_other (b : Body) {c d : ChanId} (f : Inventory → Inventory) (h : c ≠ d) :
    (b.modInv c f).inv[d] = b.inv[d] := by
  have : c.val ≠ d.val := fun e => h (Fin.ext e)
  simp [Body.modInv, Vector.getElem_set_ne, this]

/-- R5: a change adds 1 to the generation. -/
theorem changeEntry_same (b : Body) (e : EntryNo) (l : Option Live) :
    (b.changeEntry e l).dir[e] = ⟨b.dir[e].gen + 1#8, l⟩ := by
  simp [Body.changeEntry]

theorem changeEntry_other (b : Body) {e d : EntryNo} (l : Option Live) (h : e ≠ d) :
    (b.changeEntry e l).dir[d] = b.dir[d] := by
  have : e.val ≠ d.val := fun q => h (Fin.ext q)
  simp [Body.changeEntry, Vector.getElem_set_ne, this]

theorem modCond_same (b : Body) (k : Condition) (f : CondRec → CondRec) :
    (b.modCond k f).att[k.num] = f b.att[k.num] := by
  simp [Body.modCond]

theorem modCond_other (b : Body) (k : Condition) (f : CondRec → CondRec) {n : Fin 10} (h : k.num ≠ n) :
    (b.modCond k f).att[n] = b.att[n] := by
  have : k.num.val ≠ n.val := fun q => h (Fin.ext q)
  simp [Body.modCond, Vector.getElem_set_ne, this]

theorem setWatch_same (b : Body) (i : WatchNo) (w : Watch) : (b.setWatch i w).watch[i] = some w := by
  simp [Body.setWatch]

theorem setWatch_other (b : Body) {i j : WatchNo} (w : Watch) (h : i ≠ j) : (b.setWatch i w).watch[j] = b.watch[j] := by
  have : i.val ≠ j.val := fun q => h (Fin.ext q)
  simp [Body.setWatch, Vector.getElem_set_ne, this]

theorem fenceOf_modFence_same (b : Body) (c : ChanId) (f : FenceUnit → FenceUnit) (h : c.val < 8) :
    (b.modFence c f).fenceOf c = f (b.fenceOf c) := by
  simp [Body.modFence, Body.fenceOf, h]

theorem fenceOf_modFence_other (b : Body) {c d : ChanId} (f : FenceUnit → FenceUnit) (h : c ≠ d) :
    (b.modFence c f).fenceOf d = b.fenceOf d := by
  have : c.val ≠ d.val := fun e => h (Fin.ext e)
  by_cases hc : c.val < 8 <;> by_cases hd : d.val < 8 <;>
    simp [Body.modFence, Body.fenceOf, hc, hd, Vector.getElem_set_ne, this]

/-! ### The same with the place as a number: simp writes `v[c]` as `v[c.val]`, so these are its forms -/

@[simp] theorem modChan_same_val (b : Body) (c : ChanId) (f : Channel → Channel) :
    (b.modChan c f).chan[c.val] = f b.chan[c.val] := by simp [Body.modChan]

theorem modChan_other_val (b : Body) {c d : ChanId} (f : Channel → Channel) (h : c ≠ d) :
    (b.modChan c f).chan[d.val] = b.chan[d.val] := modChan_other b f h

@[simp] theorem modLink_same_val (b : Body) (c : ChanId) (f : Link → Link) :
    (b.modLink c f).link[c.val] = f b.link[c.val] := by simp [Body.modLink]

theorem modLink_other_val (b : Body) {c d : ChanId} (f : Link → Link) (h : c ≠ d) :
    (b.modLink c f).link[d.val] = b.link[d.val] := modLink_other b f h

@[simp] theorem modInv_same_val (b : Body) (c : ChanId) (f : Inventory → Inventory) :
    (b.modInv c f).inv[c.val] = b.inv[c.val].map f := by simp [Body.modInv]

theorem modInv_other_val (b : Body) {c d : ChanId} (f : Inventory → Inventory) (h : c ≠ d) :
    (b.modInv c f).inv[d.val] = b.inv[d.val] := modInv_other b f h

@[simp] theorem changeEntry_same_val (b : Body) (e : EntryNo) (l : Option Live) :
    (b.changeEntry e l).dir[e.val] = ⟨b.dir[e.val].gen + 1#8, l⟩ := by simp [Body.changeEntry]

theorem changeEntry_other_val (b : Body) {e d : EntryNo} (l : Option Live) (h : e ≠ d) :
    (b.changeEntry e l).dir[d.val] = b.dir[d.val] := changeEntry_other b l h

@[simp] theorem modCond_same_val (b : Body) (k : Condition) (f : CondRec → CondRec) :
    (b.modCond k f).att[k.num.val] = f b.att[k.num.val] := by simp [Body.modCond]

theorem modCond_other_val (b : Body) (k : Condition) (f : CondRec → CondRec) {n : Fin 10} (h : k.num ≠ n) :
    (b.modCond k f).att[n.val] = b.att[n.val] := modCond_other b k f h

@[simp] theorem setWatch_same_val (b : Body) (i : WatchNo) (w : Watch) : (b.setWatch i w).watch[i.val] = some w := by
  simp [Body.setWatch]

theorem setWatch_other_val (b : Body) {i j : WatchNo} (w : Watch) (h : i ≠ j) :
    (b.setWatch i w).watch[j.val] = b.watch[j.val] := setWatch_other b w h

/-! ### Updates of the whole state -/

@[simp] theorem setPort_inReset (s : State) (p : PortId) (r : Port) : (s.setPort p r).inReset = s.inReset := by cases p <;> rfl
@[simp] theorem setPort_refclk (s : State) (p : PortId) (r : Port) : (s.setPort p r).refclk = s.refclk := by cases p <;> rfl
@[simp] theorem setPort_now (s : State) (p : PortId) (r : Port) : (s.setPort p r).now = s.now := by cases p <;> rfl
@[simp] theorem setPort_items (s : State) (p : PortId) (r : Port) : (s.setPort p r).items = s.items := by cases p <;> rfl
@[simp] theorem setPort_plan (s : State) (p : PortId) (r : Port) : (s.setPort p r).plan = s.plan := by cases p <;> rfl
@[simp] theorem setPort_grant (s : State) (p : PortId) (r : Port) : (s.setPort p r).grant = s.grant := by cases p <;> rfl
@[simp] theorem setPort_executor (s : State) (p : PortId) (r : Port) : (s.setPort p r).executor = s.executor := by cases p <;> rfl
@[simp] theorem setPort_decayTimer (s : State) (p : PortId) (r : Port) : (s.setPort p r).decayTimer = s.decayTimer := by cases p <;> rfl
@[simp] theorem setPort_body (s : State) (p : PortId) (r : Port) : (s.setPort p r).body = s.body := by cases p <;> rfl
@[simp] theorem setPort_pending (s : State) (p : PortId) (r : Port) : (s.setPort p r).pending = s.pending := by cases p <;> rfl
@[simp] theorem setPort_picks (s : State) (p : PortId) (r : Port) : (s.setPort p r).picks = s.picks := by cases p <;> rfl
@[simp] theorem withBody_inReset (s : State) (b : Body) : (s.withBody b).inReset = s.inReset := rfl
@[simp] theorem withBody_refclk (s : State) (b : Body) : (s.withBody b).refclk = s.refclk := rfl
@[simp] theorem withBody_now (s : State) (b : Body) : (s.withBody b).now = s.now := rfl
@[simp] theorem withBody_items (s : State) (b : Body) : (s.withBody b).items = s.items := rfl
@[simp] theorem withBody_plan (s : State) (b : Body) : (s.withBody b).plan = s.plan := rfl
@[simp] theorem withBody_grant (s : State) (b : Body) : (s.withBody b).grant = s.grant := rfl
@[simp] theorem withBody_executor (s : State) (b : Body) : (s.withBody b).executor = s.executor := rfl
@[simp] theorem withBody_portA (s : State) (b : Body) : (s.withBody b).portA = s.portA := rfl
@[simp] theorem withBody_portB (s : State) (b : Body) : (s.withBody b).portB = s.portB := rfl
@[simp] theorem withBody_decayTimer (s : State) (b : Body) : (s.withBody b).decayTimer = s.decayTimer := rfl
@[simp] theorem withBody_pending (s : State) (b : Body) : (s.withBody b).pending = s.pending := rfl
@[simp] theorem withBody_picks (s : State) (b : Body) : (s.withBody b).picks = s.picks := rfl
@[simp] theorem dispatch_inReset (s : State) : s.dispatch.inReset = s.inReset := by
  unfold State.dispatch; split <;> rfl
@[simp] theorem dispatch_refclk (s : State) : s.dispatch.refclk = s.refclk := by
  unfold State.dispatch; split <;> rfl
@[simp] theorem dispatch_now (s : State) : s.dispatch.now = s.now := by
  unfold State.dispatch; split <;> rfl
@[simp] theorem dispatch_items (s : State) : s.dispatch.items = s.items := by
  unfold State.dispatch; split <;> rfl
@[simp] theorem dispatch_plan (s : State) : s.dispatch.plan = s.plan := by
  unfold State.dispatch; split <;> rfl
@[simp] theorem dispatch_grant (s : State) : s.dispatch.grant = s.grant := by
  unfold State.dispatch; split <;> rfl
@[simp] theorem dispatch_portA (s : State) : s.dispatch.portA = s.portA := by
  unfold State.dispatch; split <;> rfl
@[simp] theorem dispatch_portB (s : State) : s.dispatch.portB = s.portB := by
  unfold State.dispatch; split <;> rfl
@[simp] theorem dispatch_decayTimer (s : State) : s.dispatch.decayTimer = s.decayTimer := by
  unfold State.dispatch; split <;> rfl
@[simp] theorem dispatch_body (s : State) : s.dispatch.body = s.body := by
  unfold State.dispatch; split <;> rfl
@[simp] theorem dispatch_pending (s : State) : s.dispatch.pending = s.pending := by
  unfold State.dispatch; split <;> rfl
@[simp] theorem dispatch_picks (s : State) : s.dispatch.picks = s.picks := by
  unfold State.dispatch; split <;> rfl
@[simp] theorem placeReply_inReset (s : State) (p : PortId) (r : List Byte) : (s.placeReply p r).inReset = s.inReset := by
  cases p <;> rfl
@[simp] theorem placeReply_refclk (s : State) (p : PortId) (r : List Byte) : (s.placeReply p r).refclk = s.refclk := by
  cases p <;> rfl
@[simp] theorem placeReply_now (s : State) (p : PortId) (r : List Byte) : (s.placeReply p r).now = s.now := by
  cases p <;> rfl
@[simp] theorem placeReply_items (s : State) (p : PortId) (r : List Byte) : (s.placeReply p r).items = s.items := by
  cases p <;> rfl
@[simp] theorem placeReply_plan (s : State) (p : PortId) (r : List Byte) : (s.placeReply p r).plan = s.plan := by
  cases p <;> rfl
@[simp] theorem placeReply_grant (s : State) (p : PortId) (r : List Byte) : (s.placeReply p r).grant = s.grant := by
  cases p <;> rfl
@[simp] theorem placeReply_decayTimer (s : State) (p : PortId) (r : List Byte) : (s.placeReply p r).decayTimer = s.decayTimer := by
  cases p <;> rfl
@[simp] theorem placeReply_body (s : State) (p : PortId) (r : List Byte) : (s.placeReply p r).body = s.body := by
  cases p <;> rfl
@[simp] theorem placeReply_pending (s : State) (p : PortId) (r : List Byte) : (s.placeReply p r).pending = s.pending := by
  cases p <;> rfl
@[simp] theorem placeReply_picks (s : State) (p : PortId) (r : List Byte) : (s.placeReply p r).picks = s.picks := by
  cases p <;> rfl
@[simp] theorem withBody_body (s : State) (b : Body) : (s.withBody b).body = b.finish s.env := rfl
@[simp] theorem port_a (s : State) : s.port .a = s.portA := rfl
@[simp] theorem port_b (s : State) : s.port .b = s.portB := rfl
@[simp] theorem port_setPort (s : State) (p : PortId) (r : Port) : (s.setPort p r).port p = r := by cases p <;> rfl

theorem port_setPort_other (s : State) {p q : PortId} (r : Port) (h : p ≠ q) : (s.setPort p r).port q = s.port q := by
  cases p <;> cases q <;> first | rfl | exact absurd rfl h

@[simp] theorem env_withBody (s : State) (b : Body) : (s.withBody b).env = s.env := rfl
@[simp] theorem env_setPort (s : State) (p : PortId) (r : Port) : (s.setPort p r).env = s.env := by cases p <;> rfl

end Sys2Proof.Laws
end

