-- ==== Sys2Proof/Laws/Lookup.lean ====
section
/-! SUPPORT. What the searches of the directory and the watch table find, and what the operand checks accept. -/

namespace Sys2Proof.Laws

open Sys2Proof.Machine

/-! ### Lists of numbered records -/

/-- A record of a vector stands in its numbered list at its own number. -/
theorem mem_zip_finRange {α : Type} {n : Nat} (v : Vector α n) (i : Fin n) (x : α) :
    (i, x) ∈ (List.finRange n).zip v.toList ↔ v[i] = x := by
  rw [List.mem_iff_getElem]
  constructor
  · rintro ⟨j, hj, h⟩
    rw [List.getElem_zip] at h
    have h1 := congrArg Prod.fst h
    have h2 := congrArg Prod.snd h
    simp only [List.getElem_finRange] at h1
    subst h1
    simpa using h2
  · intro h
    refine ⟨i.val, by simp, ?_⟩
    rw [List.getElem_zip]
    simp [← h]

/-- The numbered list is in ascending order. -/
theorem zip_finRange_sorted {α : Type} {n : Nat} (v : Vector α n) :
    ((List.finRange n).zip v.toList).Pairwise fun x y => x.1 < y.1 := by
  have h : ((List.finRange n).zip v.toList).map Prod.fst = List.finRange n := by
    rw [List.map_fst_zip]
    simp
  have hs : (List.finRange n).Pairwise (· < ·) := List.pairwise_lt_finRange n
  rw [← h, List.pairwise_map] at hs
  exact hs

/-- A search of a numbered list finds the record of the lowest number that satisfies the test. -/
theorem find_zip_some {α : Type} {n : Nat} (v : Vector α n) (p : Fin n × α → Bool) (i : Fin n) (x : α) :
    ((List.finRange n).zip v.toList).find? p = some (i, x) ↔
      v[i] = x ∧ p (i, x) = true ∧ ∀ j : Fin n, j < i → p (j, v[j]) = false := by
  have hs := zip_finRange_sorted v
  constructor
  · intro h
    have hm := (mem_zip_finRange v i x).1 (List.mem_of_find?_eq_some h)
    refine ⟨hm, List.find?_some h, fun j hj => ?_⟩
    obtain ⟨_, as, bs, he, hb⟩ := List.find?_eq_some_iff_append.1 h
    have hj' := (mem_zip_finRange v j v[j]).2 rfl
    rw [he] at hj' hs
    rcases List.mem_append.1 hj' with h1 | h1
    · simpa using hb _ h1
    · rcases List.mem_cons.1 h1 with h2 | h2
      · exact absurd (congrArg Prod.fst h2) (ne_of_lt hj)
      · have := (List.pairwise_cons.1 (List.pairwise_append.1 hs).2.1).1 _ h2
        exact absurd this (lt_asymm hj)
  · rintro ⟨hx, hp, hlt⟩
    cases hf : ((List.finRange n).zip v.toList).find? p with
    | none => exact absurd hp (by simpa using List.find?_eq_none.1 hf _ ((mem_zip_finRange v i x).2 hx))
    | some y =>
      obtain ⟨j, z⟩ := y
      have hz := (mem_zip_finRange v j z).1 (List.mem_of_find?_eq_some hf)
      obtain ⟨_, as, bs, he, hb⟩ := List.find?_eq_some_iff_append.1 hf
      have hi := (mem_zip_finRange v i x).2 hx
      rcases lt_trichotomy j i with h | h | h
      · have := hlt j h
        rw [hz] at this
        rw [List.find?_some hf] at this
        cases this
      · subst h
        rw [← hx, ← hz]
      · rw [he] at hi hs
        rcases List.mem_append.1 hi with h1 | h1
        · have := hb _ h1
          simp [hp] at this
        · rcases List.mem_cons.1 h1 with h2 | h2
          · exact absurd (congrArg Prod.fst h2) (ne_of_lt h)
          · have := (List.pairwise_cons.1 (List.pairwise_append.1 hs).2.1).1 _ h2
            exact absurd this (lt_asymm h)

theorem find_zip_none {α : Type} {n : Nat} (v : Vector α n) (p : Fin n × α → Bool) :
    ((List.finRange n).zip v.toList).find? p = none ↔ ∀ i : Fin n, p (i, v[i]) = false := by
  rw [List.find?_eq_none]
  constructor
  · intro h i
    simpa using h (i, v[i]) ((mem_zip_finRange v i _).2 rfl)
  · rintro h ⟨i, x⟩ hm
    have := (mem_zip_finRange v i x).1 hm
    subst this
    exact Bool.eq_false_iff.1 (h i)

/-! ### The directory -/

theorem anyEntry_iff (b : Body) (p : Live → Bool) :
    b.anyEntry p = true ↔ ∃ (e : EntryNo) (r : Live), b.dir[e].live = some r ∧ p r = true := by
  unfold Body.anyEntry
  rw [List.any_eq_true]
  constructor
  · rintro ⟨x, hm, hp⟩
    obtain ⟨i, hi, rfl⟩ := List.getElem_of_mem hm
    obtain ⟨r, hr, h⟩ := Option.any_eq_true _ _ |>.1 hp
    exact ⟨⟨i, by simpa using hi⟩, r, by simpa using hr, h⟩
  · rintro ⟨e, r, hr, h⟩
    exact ⟨b.dir[e], by simp, by simp only [hr, Option.any_some, h]⟩

theorem excluded_iff (b : Body) (c : ChanId) (bank : Nat) : b.excluded c bank = true ↔ BankExcluded b c bank := by
  simp [Body.excluded, anyEntry_iff, BankExcluded]

theorem lowestFree_iff (b : Body) (e : EntryNo) : b.lowestFree = some e ↔ LowestFree b e := by
  simp only [Body.lowestFree, Body.numbered, Option.map_eq_some_iff, Prod.exists]
  constructor
  · rintro ⟨i, x, h, rfl⟩
    obtain ⟨hx, hp, hlt⟩ := (find_zip_some _ _ _ _).1 h
    subst hx
    refine ⟨by simpa using hp, fun d hd hn => ?_⟩
    have := hlt d hd
    rw [hn] at this
    cases this
  · rintro ⟨h, hlt⟩
    refine ⟨e, b.dir[e], (find_zip_some _ _ _ _).2 ⟨rfl, by simpa using h, fun j hj => ?_⟩, rfl⟩
    have := hlt j hj
    cases hl : b.dir[j].live with
    | none => exact absurd hl this
    | some r => simp_all

theorem lowestFree_none (b : Body) : b.lowestFree = none ↔ ∀ e, ¬LowestFree b e := by
  constructor
  · intro h e he
    rw [(lowestFree_iff b e).2 he] at h
    cases h
  · intro h
    cases hl : b.lowestFree with
    | none => rfl
    | some e => exact absurd ((lowestFree_iff b e).1 hl) (h e)

/-- The entry that a search finds is the lowest-numbered one that satisfies the test. -/
theorem findEntry_iff (b : Body) (p : Live → Bool) (e : EntryNo) :
    b.findEntry p = some e ↔ (∃ r, b.dir[e].live = some r ∧ p r = true) ∧
      ∀ (d : EntryNo) (q : Live), d < e → b.dir[d].live = some q → p q = false := by
  simp only [Body.findEntry, Body.numbered, Option.map_eq_some_iff, Prod.exists]
  constructor
  · rintro ⟨i, x, h, rfl⟩
    obtain ⟨hx, hp, hlt⟩ := (find_zip_some _ _ _ _).1 h
    subst hx
    refine ⟨by simpa [Option.any_eq_true] using hp, fun d q hd hq => ?_⟩
    have := hlt d hd
    simp only [hq, Option.any_some] at this
    exact this
  · rintro ⟨⟨r, hr, hp⟩, hlt⟩
    refine ⟨e, b.dir[e], (find_zip_some _ _ _ _).2 ⟨rfl, by simp only [hr, Option.any_some, hp], fun j hj => ?_⟩, rfl⟩
    cases hl : b.dir[j].live with
    | none => simp only [Option.any_none]
    | some q => simp only [Option.any_some, hlt j q hj hl]

theorem findEntry_none (b : Body) (p : Live → Bool) :
    b.findEntry p = none ↔ ∀ (e : EntryNo) (r : Live), b.dir[e].live = some r → p r = false := by
  simp only [Body.findEntry, Body.numbered, Option.map_eq_none_iff, find_zip_none]
  constructor
  · intro h e r hr
    have := h e
    simp only [hr, Option.any_some] at this
    exact this
  · intro h e
    cases hl : b.dir[e].live with
    | none => simp
    | some r => simp only [Option.any_some, h e r hl]

/-- Membership in the list of the entries that satisfy a test. -/
theorem mem_entriesWhere (b : Body) (p : Live → Bool) (e : EntryNo) :
    e ∈ b.entriesWhere p ↔ ∃ r, b.dir[e].live = some r ∧ p r = true := by
  simp only [Body.entriesWhere, Body.numbered, List.mem_map, List.mem_filter, Prod.exists]
  constructor
  · rintro ⟨i, x, ⟨hm, hp⟩, rfl⟩
    have := (mem_zip_finRange _ _ _).1 hm
    subst this
    simpa [Option.any_eq_true] using hp
  · rintro ⟨r, hr, hp⟩
    exact ⟨e, b.dir[e], ⟨(mem_zip_finRange _ _ _).2 rfl, by simp only [hr, Option.any_some, hp]⟩, rfl⟩

/-- The entries that satisfy a test are listed in ascending number. -/
theorem entriesWhere_sorted (b : Body) (p : Live → Bool) : (b.entriesWhere p).Pairwise (· < ·) := by
  unfold Body.entriesWhere
  rw [List.pairwise_map]
  exact (zip_finRange_sorted _).filter _

/-! ### Operands -/

theorem chanOf_some (n : Nat) (c : ChanId) : chanOf n = some c ↔ c.val = n := by
  unfold chanOf
  split
  · simp [Fin.ext_iff, eq_comm]
  · rename_i h
    have := c.isLt
    simp
    omega

theorem chanOf_none (n : Nat) : chanOf n = none ↔ 11 < n := by
  unfold chanOf
  split <;> simp <;> omega

theorem entryOf_some (n : Nat) (e : EntryNo) : entryOf n = some e ↔ e.val = n := by
  unfold entryOf
  split
  · simp [Fin.ext_iff, eq_comm]
  · rename_i h
    have := e.isLt
    simp
    omega

theorem entryOf_none (n : Nat) : entryOf n = none ↔ 1023 < n := by
  unfold entryOf
  split <;> simp <;> omega

theorem slotOf_some (n : Nat) (i : SlotNo) : slotOf n = some i ↔ i.val = n := by
  unfold slotOf
  split
  · simp [Fin.ext_iff, eq_comm]
  · rename_i h
    have := i.isLt
    simp
    omega

theorem slotOf_none (n : Nat) : slotOf n = none ↔ 15 < n := by
  unfold slotOf
  split <;> simp <;> omega

theorem ordinary_iff (g : Geometry) (bank row : Nat) : g.ordinary bank row = true ↔
    bank < g.banks ∧ row < g.rowsPerBank ∧ ¬(bank = g.poolBank ∧ g.rowsPerBank - g.poolRows ≤ row) := by
  simp only [Geometry.ordinary, Geometry.holds, Geometry.inPool, Bool.and_eq_true, decide_eq_true_eq, Bool.not_eq_true',
    Bool.and_eq_false_iff, decide_eq_false_iff_not, beq_eq_false_iff_ne]
  by_cases h1 : row < g.rowsPerBank
  · by_cases h2 : bank = g.poolBank <;> simp [h1, h2]
  · simp [h1]

/-- R2: the key that an operand gives. -/
theorem validKey_iff (b : Body) (o : KeyOp) (k : Key) : b.validKey o = some k ↔ KeyValid b o k := by
  obtain ⟨n, bank, scope, row⟩ := o
  obtain ⟨c, kb, kr⟩ := k
  have fit : ∀ (w : Option Nat), ((b.inv[c].all fun v => decide (bank < v.geo.banks) && w.all (v.geo.ordinary bank)) = true ↔
      ∀ v, b.inv[c] = some v → bank < v.geo.banks ∧
        ∀ r, w = some r → r < v.geo.rowsPerBank ∧ ¬(bank = v.geo.poolBank ∧ v.geo.rowsPerBank - v.geo.poolRows ≤ r)) := by
    intro w
    cases b.inv[c] with
    | none => simp
    | some v =>
      cases w with
      | none => simp
      | some r =>
        simp only [Option.all_some, Bool.and_eq_true, decide_eq_true_eq, ordinary_iff, Option.some.injEq, forall_eq']
        constructor
        · exact fun h => ⟨h.1, h.2.2⟩
        · exact fun h => ⟨h.1, h.1, h.2⟩
  unfold Body.validKey KeyValid
  rw [Option.bind_eq_some_iff]
  dsimp only
  constructor
  · rintro ⟨d, hd, h⟩
    rw [chanOf_some] at hd
    by_cases hs : scope = 0
    · simp only [hs, if_true] at h
      split at h
      · rename_i hc
        simp only [Option.some.injEq, Key.mk.injEq] at h
        obtain ⟨rfl, rfl, rfl⟩ := h
        exact ⟨hd.symm, rfl, hc.1, .inl ⟨hs, rfl, by simpa using hc.2.2.1⟩, (fit _).1 hc.2.2.2.2⟩
      · cases h
    · simp only [hs, if_false] at h
      split at h
      · rename_i hc
        simp only [Option.some.injEq, Key.mk.injEq] at h
        obtain ⟨rfl, rfl, rfl⟩ := h
        refine ⟨hd.symm, rfl, hc.1, .inr ⟨by have := hc.2.1; omega, rfl, ?_⟩, (fit _).1 hc.2.2.2.2⟩
        simpa [isBuffer] using hc.2.2.2.1
      · cases h
  · rintro ⟨h1, h2, h3, h4, h5⟩
    subst h2
    refine ⟨c, (chanOf_some _ _).2 h1.symm, ?_⟩
    rcases h4 with ⟨rfl, rfl, h⟩ | ⟨rfl, rfl, h⟩
    · exact if_pos ⟨h3, by omega, by simpa using h, .inr rfl, (fit _).2 h5⟩
    · exact if_pos ⟨h3, le_refl _, rfl, .inl (by simpa [isBuffer] using h), (fit _).2 h5⟩

theorem validKey_none (b : Body) (o : KeyOp) : b.validKey o = none ↔ ∀ k, ¬KeyValid b o k := by
  constructor
  · intro h k hk
    rw [(validKey_iff b o k).2 hk] at h
    cases h
  · intro h
    cases hv : b.validKey o with
    | none => rfl
    | some k => exact absurd ((validKey_iff b o k).1 hv) (h k)

end Sys2Proof.Laws
end

