-- ==== Sys2Proof/Laws/Shapes.lean ====
section
/-! SUPPORT. What the shared shapes of the meanings do: events, frames handled from a slot, requests carried out, and the end of
a change. -/

namespace Sys2Proof.Laws

open Sys2Proof.Machine

/-! ### Events and frames -/

theorem onEvent_due {s : State} {due : Bool} (f : Env → Body → Body) (hr : s.running = true) (hd : due = true) :
    onEvent s due f = .next (s.withBody (f s.env s.body)) := by
  simp [onEvent, hr, hd]

theorem onEvent_not_due {s : State} {due : Bool} (f : Env → Body → Body) (h : ¬(s.running = true ∧ due = true)) :
    onEvent s due f = .next s := by
  unfold onEvent
  cases hr : s.running <;> cases hd : due <;> simp_all

/-- An event answers a next state that differs from the old one in its blocks alone. -/
theorem onEvent_next (s : State) (due : Bool) (f : Env → Body → Body) :
    ∃ b, onEvent s due f = .next { s with body := b } := by
  unfold onEvent
  split
  · exact ⟨_, rfl⟩
  · exact ⟨s.body, rfl⟩

theorem takeFrame_acts {s : State} {l : ChanId} {f : RxFrame} {p : RxFrame → Bool} {act : Env → Body → RxFrame → Option Body}
    {b : Body} (h : s.HoldsFrame l f) (hp : p f = true) (ha : act s.env (s.body.popFrame l) f = some b) :
    takeFrame l p act s = .next (s.withBody b) := by
  obtain ⟨hr, hf⟩ := h
  unfold takeFrame
  cases hx : s.body.link[l].rx with
  | nil => rw [hx] at hf; cases hf
  | cons g gs =>
    obtain rfl : g = f := by rw [hx] at hf; exact Option.some.inj hf
    simp [hr, hp, ha]

theorem takeFrame_ignores {s : State} {l : ChanId} {f : RxFrame} {p : RxFrame → Bool}
    {act : Env → Body → RxFrame → Option Body} (h : s.HoldsFrame l f) (hp : p f = true)
    (ha : act s.env (s.body.popFrame l) f = none) : takeFrame l p act s = .next { s with body := s.body.popFrame l } := by
  obtain ⟨hr, hf⟩ := h
  unfold takeFrame
  cases hx : s.body.link[l].rx with
  | nil => rw [hx] at hf; cases hf
  | cons g gs =>
    obtain rfl : g = f := by rw [hx] at hf; exact Option.some.inj hf
    simp [hr, hp, ha]

/-- Without a frame that the command names, nothing changes. -/
theorem takeFrame_idle {s : State} {l : ChanId} {p : RxFrame → Bool} {act : Env → Body → RxFrame → Option Body}
    (h : ∀ f, s.HoldsFrame l f → p f = false) : takeFrame l p act s = .next s := by
  unfold takeFrame
  cases hx : s.body.link[l].rx with
  | nil => rfl
  | cons g gs =>
    cases hr : s.running with
    | false => simp
    | true =>
      have := h g ⟨hr, by rw [hx]; rfl⟩
      simp [this]

/-- A frame command answers a next state that differs from the old one in its blocks alone. -/
theorem takeFrame_next (l : ChanId) (p : RxFrame → Bool) (act : Env → Body → RxFrame → Option Body) (s : State) :
    ∃ b, takeFrame l p act s = .next { s with body := b } := by
  unfold takeFrame
  split
  · exact ⟨s.body, rfl⟩
  · split
    · split
      · exact ⟨_, rfl⟩
      · exact ⟨_, rfl⟩
    · exact ⟨s.body, rfl⟩

/-! ### Requests -/

/-- R159: a request that the port may use is carried out and answered. -/
theorem serve_answers {s : State} {p : PortId} {tag : Byte} {rq : Request} {act : Request → Option (State → Answer)}
    {f : State → Answer} (h : s.Asked p tag rq) (ha : act rq = some f) :
    serve p act s = .next ((f s).state.placeReply p (replyFrame tag rq.code (f s).status (f s).payload)) := by
  obtain ⟨he, hw⟩ := h
  simp [serve, he, ha, hw]

/-- R160, R164: a request that the port may not use is refused DENIED. -/
theorem serve_denied {s : State} {p : PortId} {tag : Byte} {rq : Request} {act : Request → Option (State → Answer)}
    {f : State → Answer} (he : s.executing p = some (tag, rq)) (hw : s.allows p rq = false) (ha : act rq = some f) :
    serve p act s = .next (s.placeReply p (replyFrame tag rq.code .denied [])) := by
  simp [serve, he, ha, hw, State.refuse]

/-- A request command that the executor is not carrying out changes nothing. -/
theorem serve_idle {s : State} {p : PortId} {act : Request → Option (State → Answer)}
    (h : ∀ tag rq, s.executing p = some (tag, rq) → act rq = none) : serve p act s = .next s := by
  unfold serve
  split
  · rfl
  · rename_i tag rq he
    simp [h tag rq he]

/-! ### A reply placed -/

@[simp] theorem placeReply_req (s : State) (p : PortId) (r : List Byte) : ((s.placeReply p r).port p).req = none := by
  cases p <;> rfl

@[simp] theorem placeReply_reply (s : State) (p : PortId) (r : List Byte) :
    ((s.placeReply p r).port p).reply = some r := by
  cases p <;> rfl

@[simp] theorem placeReply_hold (s : State) (p : PortId) (r : List Byte) :
    ((s.placeReply p r).port p).hold = some s.items.replyHold := by
  cases p <;> rfl

/-- The other port's record stays as it was. -/
theorem placeReply_other (s : State) {p q : PortId} (r : List Byte) (h : p ≠ q) : (s.placeReply p r).port q = s.port q := by
  cases p <;> cases q <;> first | rfl | exact absurd rfl h

/-- The executor goes on with the other port's request, if it holds one. -/
theorem placeReply_executor_a (s : State) (r : List Byte) :
    (s.placeReply .a r).executor = if s.portB.req.isSome then some .b else none := by
  rfl

theorem placeReply_executor_b (s : State) (r : List Byte) :
    (s.placeReply .b r).executor = if s.portA.req.isSome then some .a else none := by
  simp [State.placeReply, State.nextRequest, State.setPort]

/-! ### The end of a change -/

@[simp] theorem refreshLevels_dir (b : Body) (env : Env) : (b.refreshLevels env).dir = b.dir := rfl
@[simp] theorem refreshLevels_inv (b : Body) (env : Env) : (b.refreshLevels env).inv = b.inv := rfl
@[simp] theorem refreshLevels_watch (b : Body) (env : Env) : (b.refreshLevels env).watch = b.watch := rfl
@[simp] theorem refreshLevels_chan (b : Body) (env : Env) : (b.refreshLevels env).chan = b.chan := rfl
@[simp] theorem refreshLevels_link (b : Body) (env : Env) : (b.refreshLevels env).link = b.link := rfl
@[simp] theorem refreshLevels_fence (b : Body) (env : Env) : (b.refreshLevels env).fence = b.fence := rfl

theorem closeOverflows_clean {b : Body} (h : NoOverflow b) (env : Env) (n : Nat) : b.closeOverflows env n = b := by
  cases n with
  | zero => rfl
  | succ n =>
    have : (allChans.find? fun c => b.link[c].overflow) = none := by
      rw [List.find?_eq_none]
      intro c _
      rw [h c]
      exact Bool.false_ne_true
    unfold Body.closeOverflows
    rw [this]

/-- A change in which no link met a send overflow ends with the level conditions alone. -/
theorem finish_clean {b : Body} (h : NoOverflow b) (env : Env) : b.finish env = b.refreshLevels env := by
  simp [Body.finish, closeOverflows_clean h]

/-- R140: what every loss of a link keeps, the end of a change keeps. -/
theorem closeOverflows_keeps {P : Body → Prop} (env : Env)
    (h : ∀ b c, P b → b.link[c].overflow = true → P (b.linkDown env c Counters.sendOverflow)) :
    ∀ (n : Nat) (b : Body), P b → P (b.closeOverflows env n)
  | 0, _, hb => hb
  | n + 1, b, hb => by
    unfold Body.closeOverflows
    split
    · exact hb
    · rename_i c hc
      have : b.link[c].overflow = true := by simpa using List.find?_some hc
      exact closeOverflows_keeps env h n _ (h b c hb this)

/-- What every step of a fold keeps, the fold keeps. -/
theorem foldl_keeps {α β : Type} {P : β → Prop} {f : β → α → β} (h : ∀ b a, P b → P (f b a)) :
    ∀ (as : List α) (b : β), P b → P (as.foldl f b)
  | [], _, hb => hb
  | a :: as, b, hb => foldl_keeps h as (f b a) (h b a hb)

end Sys2Proof.Laws
end

