-- ==== Sys2Proof/Laws/Ops.lean ====
section
/-! SUPPORT. What each shared operation of the blocks does, said once: sending, freeing, choosing a target, the level conditions,
settling, and the free order of expiries. -/

namespace Sys2Proof.Laws

open Sys2Proof.Machine

/-! ### Sending -/

theorem offer_queues {b : Body} {c : ChanId} (m : Msg) (n : Note) (hs : b.link[c].state = .up) (ho : b.link[c].overflow = false)
    (hl : b.link[c].sendq.length < 176) :
    b.offer c m n = { b with link := b.link.set c { b.link[c] with sendq := b.link[c].sendq ++ [⟨m, n⟩] } } := by
  simp only [Body.offer, Body.modLink, Link.offer, hs, ho, Config.sendQueueMax, hl, and_self, if_true]

theorem offer_overflows {b : Body} {c : ChanId} (m : Msg) (n : Note) (hs : b.link[c].state = .up)
    (ho : b.link[c].overflow = false) (hl : 176 ≤ b.link[c].sendq.length) :
    b.offer c m n = { b with link := b.link.set c { b.link[c] with overflow := true } } := by
  simp only [Body.offer, Body.modLink, Link.offer, hs, ho, Config.sendQueueMax, Nat.not_lt.2 hl, and_self, if_true, if_false]

/-- A link that is not UP, or that has met an overflow in this change, discards what is offered. -/
theorem offer_discards {b : Body} {c : ChanId} (m : Msg) (n : Note) (h : b.link[c].state ≠ .up ∨ b.link[c].overflow = true) :
    b.offer c m n = b := by
  have : ¬(b.link[c].state = .up ∧ b.link[c].overflow = false) := by
    rintro ⟨h1, h2⟩
    rcases h with h | h
    · exact h h1
    · rw [h2] at h
      cases h
  simp only [Body.offer, Body.modLink, Link.offer, this, if_false]
  have : b.link.set c b.link[c] = b.link := Vector.set_getElem_self c.isLt
  rw [this]

theorem offer_other (b : Body) {c d : ChanId} (m : Msg) (n : Note) (h : c ≠ d) : (b.offer c m n).link[d] = b.link[d] :=
  modLink_other b _ h

/-! ### Fence units -/

theorem modFence_buffer (b : Body) {c : ChanId} {k : Fin 8} (h : k.val = c.val) (f : FenceUnit → FenceUnit) :
    b.modFence c f = { b with fence := b.fence.set k (f b.fence[k]) } := by
  have hc : c.val < 8 := h ▸ k.isLt
  simp only [Body.modFence, hc, dif_pos]
  simp only [← h]
  rfl

theorem modFence_table (b : Body) {c : ChanId} (h : 8 ≤ c.val) (f : FenceUnit → FenceUnit) : b.modFence c f = b := by
  simp [Body.modFence, Nat.not_lt.2 h]

theorem fenceOf_buffer (b : Body) {c : ChanId} {k : Fin 8} (h : k.val = c.val) : b.fenceOf c = b.fence[k] := by
  have hc : c.val < 8 := h ▸ k.isLt
  simp only [Body.fenceOf, hc, dif_pos]
  simp only [← h]
  rfl

theorem fenceOf_table (b : Body) {c : ChanId} (h : 8 ≤ c.val) : b.fenceOf c = FenceUnit.initial := by
  simp [Body.fenceOf, Nat.not_lt.2 h]

theorem modFence_fence (b : Body) (c : ChanId) (f : FenceUnit → FenceUnit) (k : Fin 8) :
    (b.modFence c f).fence[k] = if k.val = c.val then f b.fence[k] else b.fence[k] := by
  by_cases hc : c.val < 8
  · have := modFence_buffer b (k := ⟨c.val, hc⟩) (c := c) rfl f
    rw [this]
    by_cases hk : k.val = c.val
    · have : k = ⟨c.val, hc⟩ := Fin.ext hk
      subst this
      simp
    · have : c.val ≠ k.val := fun e => hk e.symm
      simp [hk, Vector.getElem_set_ne, this]
  · rw [modFence_table b (by omega)]
    have : k.val ≠ c.val := by have := k.isLt; omega
    simp [this]

/-! ### Freeing and choosing -/

/-- R73: a row leaves the REPAIRED list of its channel. -/
theorem forgetRepaired_chan (b : Body) (k : Key) (c : ChanId) : (b.forgetRepaired k).chan[c] = if c = k.chan
    then { b.chan[c] with repaired := b.chan[c].repaired.filter fun x => ¬(x.bank = k.bank ∧ some x.row = k.row) }
    else b.chan[c] := by
  obtain ⟨d, n, row⟩ := k
  cases row with
  | none =>
    simp only [Body.forgetRepaired]
    split <;> simp
  | some x =>
    simp only [Body.forgetRepaired]
    by_cases hc : c = d
    · subst hc
      simp only [modChan_same, if_true]
      congr 1
      apply List.filter_congr
      intro y _
      rw [Bool.eq_iff_iff]
      cases y
      simp only [bne_iff_ne, ne_eq, RowKey.mk.injEq, Option.some.injEq, decide_eq_true_eq]
    · rw [modChan_other _ _ (Ne.symm hc), if_neg hc]

@[simp] theorem forgetRepaired_dir (b : Body) (k : Key) : (b.forgetRepaired k).dir = b.dir := by
  unfold Body.forgetRepaired; split <;> rfl
@[simp] theorem forgetRepaired_inv (b : Body) (k : Key) : (b.forgetRepaired k).inv = b.inv := by
  unfold Body.forgetRepaired; split <;> rfl
@[simp] theorem forgetRepaired_watch (b : Body) (k : Key) : (b.forgetRepaired k).watch = b.watch := by
  unfold Body.forgetRepaired; split <;> rfl
@[simp] theorem forgetRepaired_link (b : Body) (k : Key) : (b.forgetRepaired k).link = b.link := by
  unfold Body.forgetRepaired; split <;> rfl
@[simp] theorem forgetRepaired_fence (b : Body) (k : Key) : (b.forgetRepaired k).fence = b.fence := by
  unfold Body.forgetRepaired; split <;> rfl
@[simp] theorem forgetRepaired_att (b : Body) (k : Key) : (b.forgetRepaired k).att = b.att := by
  unfold Body.forgetRepaired; split <;> rfl

theorem forgetRepaired_rest (b : Body) (k : Key) : b.forgetRepaired k = { b with chan := (b.forgetRepaired k).chan } := by
  unfold Body.forgetRepaired
  split <;> rfl

/-- R73: the REPAIRED list of the key's channel loses the row, and nothing else changes. -/
theorem forgetRepaired_eq (b : Body) (k : Key) : b.forgetRepaired k = { b with
    chan := b.chan.set k.chan { b.chan[k.chan] with
      repaired := b.chan[k.chan].repaired.filter fun x => ¬(x.bank = k.bank ∧ some x.row = k.row) } } := by
  rw [forgetRepaired_rest]
  congr 1
  apply Vector.ext
  intro i hi
  have h := forgetRepaired_chan b k ⟨i, hi⟩
  simp only [Fin.getElem_fin] at h
  rw [h]
  by_cases hk : k.chan.val = i
  · have : (⟨i, hi⟩ : ChanId) = k.chan := Fin.ext hk.symm
    simp [this, hk]
  · have : ¬(⟨i, hi⟩ : ChanId) = k.chan := fun e => hk (congrArg Fin.val e).symm
    simp [this, Vector.getElem_set_ne, hk]

/-- R18, R73: what freeing an entry changes. -/
theorem freeEntry_eq {b : Body} {e : EntryNo} {r : Live} (h : b.dir[e].live = some r) : ∃ b', b.freeEntry e = b' ∧
    b' = { b with
      dir := b.dir.set e ⟨b.dir[e].gen + 1#8, none⟩, chan := b'.chan, fence := b'.fence
      inv := b.inv.set r.key.chan (b.inv[r.key.chan].map (·.giveBack r)) } ∧
    (∀ f : Fin 8, b'.fence[f] = if f.val = r.key.chan.val then { b.fence[f] with queue := b.fence[f].queue.filter (· != e) }
      else b.fence[f]) ∧
    ∀ c : ChanId, b'.chan[c] = if c = r.key.chan
      then { b.chan[c] with repaired := b.chan[c].repaired.filter fun k => ¬(k.bank = r.key.bank ∧ some k.row = r.key.row) }
      else b.chan[c] := by
  refine ⟨_, rfl, ?_, fun f => ?_, fun c => ?_⟩
  · simp only [Body.freeEntry, h]
    rw [forgetRepaired_rest]
    unfold Body.modFence
    split <;> rfl
  · simp only [Body.freeEntry, h, changeEntry_fence]
    simp only [forgetRepaired_fence, modFence_fence, modInv_fence]
  · simp only [Body.freeEntry, h, changeEntry_chan, forgetRepaired_chan, modFence_chan, modInv_chan]

/-- A FREE entry is freed by nothing. -/
theorem freeEntry_free {b : Body} {e : EntryNo} (h : b.dir[e].live = none) : b.freeEntry e = b := by
  simp only [Body.freeEntry, h]

/-- R13: the record of a key is freed, and no other. -/
theorem unwatch_watch (b : Body) (k : Key) (i : WatchNo) : (b.unwatch k).watch[i] = match b.watch[i] with
    | none => none
    | some w => if w.chan = k.chan ∧ w.bank = k.bank ∧ some w.row = k.row then none else some w := by
  obtain ⟨c, n, row⟩ := k
  cases row with
  | none =>
    simp only [Body.unwatch]
    cases b.watch[i] with
    | none => rfl
    | some w => simp
  | some x =>
    have h : (b.unwatch ⟨c, n, some x⟩).watch[i] = b.watch[i].filter fun w => !w.isFor c n x := by
      simp [Body.unwatch, Body.dropWatch]
    rw [h]
    cases b.watch[i] with
    | none => rfl
    | some w =>
      simp only [Option.filter_some, Watch.isFor, Option.some.injEq]
      by_cases h1 : w.chan = c <;> by_cases h2 : w.bank = n <;> by_cases h3 : w.row = x <;> simp [h1, h2, h3]

theorem unwatch_rest (b : Body) (k : Key) : b.unwatch k = { b with watch := (b.unwatch k).watch } := by
  unfold Body.unwatch
  split <;> rfl

theorem setEntryState_eq {b : Body} {e : EntryNo} {r : Live} (h : b.dir[e].live = some r) (st : EntryState) :
    b.setEntryState e st = { b with dir := b.dir.set e ⟨b.dir[e].gen + 1#8, some { r with st := st }⟩ } := by
  simp only [Body.setEntryState, h]
  rfl

/-- R13: an entry becomes ACTIVE, and the record of its key is freed. -/
theorem activate_eq {b : Body} {e : EntryNo} {r : Live} (h : b.dir[e].live = some r) : ∃ b', b.activate e = b' ∧
    b' = { b with dir := b.dir.set e ⟨b.dir[e].gen + 1#8, some { r with st := .active }⟩, watch := b'.watch } ∧
    ∀ i : WatchNo, b'.watch[i] = match b.watch[i] with
      | none => none
      | some w => if w.chan = r.key.chan ∧ w.bank = r.key.bank ∧ some w.row = r.key.row then none else some w := by
  have hb : b.activate e = (b.setEntryState e .active).unwatch r.key := by
    simp only [Body.activate, h]
  refine ⟨_, rfl, ?_, fun i => ?_⟩
  · rw [hb, unwatch_rest, setEntryState_eq h]
  · rw [hb, unwatch_watch, setEntryState_eq h]

/-- A search by state finds the least place that has it. -/
theorem findIdx_least {α : Type} [BEq α] [LawfulBEq α] (l : List α) (x : α) (i : Nat) :
    l.findIdx? (· == x) = some i ↔ Least (fun j => l[j]? = some x) i := by
  rw [List.findIdx?_eq_some_iff_getElem]
  constructor
  · rintro ⟨h, hi, hl⟩
    refine ⟨List.getElem?_eq_some_iff.2 ⟨h, beq_iff_eq.1 hi⟩, fun j hj hx => ?_⟩
    obtain ⟨h', he⟩ := List.getElem?_eq_some_iff.1 hx
    exact hl j hj (beq_iff_eq.2 he)
  · rintro ⟨hi, hl⟩
    obtain ⟨h, he⟩ := List.getElem?_eq_some_iff.1 hi
    exact ⟨h, by simpa using he, fun j hj hx =>
      hl j hj (List.getElem?_eq_some_iff.2 ⟨by omega, beq_iff_eq.1 hx⟩)⟩

theorem findIdx_none {α : Type} [BEq α] [LawfulBEq α] (l : List α) (x : α) :
    l.findIdx? (· == x) = none ↔ ∀ j : Nat, l[j]? ≠ some x := by
  rw [List.findIdx?_eq_none_iff]
  constructor
  · intro h j hj
    have := h x (List.mem_of_getElem? hj)
    simp at this
  · intro h y hy
    obtain ⟨j, hj⟩ := List.mem_iff_getElem?.1 hy
    cases hb : y == x with
    | false => rfl
    | true => exact absurd (beq_iff_eq.1 hb ▸ hj) (h j)

/-- R36, first choice: the lowest FREE spare of the bank's group. -/
theorem choose_device {env : Env} {b : Body} {c : ChanId} {bank : Nat} {v : Inventory} (hv : b.inv[c] = some v)
    (ht : b.chan[c].state = .test) (hd : env.items.deviceSparesUse = 1) {i : Nat}
    (hi : Least (fun j => v.spare (v.geo.group bank) j = some .free) i) :
    b.choose env c bank = some (.target (.device (v.geo.group bank) i)) := by
  have : v.freeSpare (v.geo.group bank) = some i := (findIdx_least _ _ _).2 hi
  simp only [Body.choose, hv, ht, hd, and_self, if_true, this, Option.map_some, Option.orElse_some]

/-- R36, without a spare: the lowest FREE slot, then a row exclusion on a BUFFER channel. -/
theorem choose_rest {env : Env} {b : Body} {c : ChanId} {bank : Nat} {v : Inventory} (hv : b.inv[c] = some v)
    (h : ∀ j, ¬(b.chan[c].state = .test ∧ env.items.deviceSparesUse = 1 ∧ v.spare (v.geo.group bank) j = some .free)) :
    b.choose env c bank = (v.freeSlot.map fun s => Replacement.target (.pool s)).orElse fun _ =>
      if c.val < 8 ∧ v.exclusions < 32 then some .exclude else none := by
  have : (if b.chan[c].state = .test ∧ env.items.deviceSparesUse = 1
      then (v.freeSpare (v.geo.group bank)).map fun i => Replacement.target (.device (v.geo.group bank) i) else none) = none := by
    split
    · rename_i hh
      have : v.freeSpare (v.geo.group bank) = none := (findIdx_none _ _).2 fun j hj => h j ⟨hh.1, hh.2, hj⟩
      rw [this]
      rfl
    · rfl
  simp only [Body.choose, hv, this, Option.orElse_none, isBuffer, Config.exclusionMax, decide_eq_true_eq]

theorem choose_none {env : Env} {b : Body} {c : ChanId} {bank : Nat} (h : b.inv[c] = none) : b.choose env c bank = none := by
  simp only [Body.choose, h]

/-- R16: a retarget marks the new target and the old one, and the entry becomes PENDING with the new one; without a target it does
nothing. -/
theorem retarget_eq {env : Env} {b : Body} {e : EntryNo} {r : Live} {t : Target} (round : Option Nat)
    (hl : b.dir[e].live = some r) (ht : r.repl = some (.target t)) :
    b.retarget env e round = (b.choose env r.key.chan r.key.bank).map fun x => { b with
      inv := b.inv.set r.key.chan (b.inv[r.key.chan].map fun v => (v.take x).spoil t)
      chan := b.chan.set r.key.chan { b.chan[r.key.chan] with
        repaired := b.chan[r.key.chan].repaired.filter fun k => ¬(k.bank = r.key.bank ∧ some k.row = r.key.row) }
      dir := b.dir.set e ⟨b.dir[e].gen + 1#8, some { r with st := .pending, repl := some x, round := round.getD r.round }⟩ } := by
  simp only [Body.retarget, hl, ht]
  cases b.choose env r.key.chan r.key.bank with
  | none => rfl
  | some x => simp only [forgetRepaired_eq, Option.map_some]; rfl

/-- R17: a conversion marks the old target, and the entry becomes a row exclusion, PENDING. -/
theorem convert_eq {b : Body} {e : EntryNo} {r : Live} {t : Target} (round : Nat) (hl : b.dir[e].live = some r)
    (ht : r.repl = some (.target t)) :
    b.convert e round = { b with
      inv := b.inv.set r.key.chan (b.inv[r.key.chan].map fun v => (v.take .exclude).spoil t)
      chan := b.chan.set r.key.chan { b.chan[r.key.chan] with
        repaired := b.chan[r.key.chan].repaired.filter fun k => ¬(k.bank = r.key.bank ∧ some k.row = r.key.row) }
      dir := b.dir.set e ⟨b.dir[e].gen + 1#8, some { r with st := .pending, repl := some .exclude, round := round }⟩ } := by
  simp only [Body.convert, hl, ht, forgetRepaired_eq]
  rfl

/-- A change of one spare's state leaves every other spare, and a spare that is not there stays away. -/
theorem spare_setSpare (v : Inventory) (g i : Nat) (st : SpareState) (h j : Nat) : (v.setSpare g i st).spare h j =
    if h = g ∧ j = i then (v.spare h j).map fun _ => st else v.spare h j := by
  simp only [Inventory.setSpare, Inventory.spare, List.getD_eq_getElem?_getD, List.getElem?_modify]
  by_cases hg : g = h
  · subst hg
    simp only [if_true, true_and]
    cases hs : v.spares[g]? with
    | none => simp
    | some l =>
      simp only [Option.map_eq_map, Option.map_some, Option.getD_some, List.getElem?_set]
      by_cases hj : i = j
      · subst hj
        simp only [if_true]
        split
        · rename_i hl
          rw [List.getElem?_eq_getElem hl]
          rfl
        · rename_i hl
          rw [List.getElem?_eq_none (by omega)]
          rfl
      · simp [hj, Ne.symm hj]
  · have : ¬h = g := fun e => hg e.symm
    simp [hg, this]

/-! ### The level conditions and the end of a change -/

theorem refreshLevels_levels (b : Body) (env : Env) : LevelsHold env (b.refreshLevels env) := by
  constructor
  · simp only [Body.refreshLevels, Body.modCond, Condition.num]
    simp [allChans, Body.meetsBudget]
    simp [Body.elapsed]
  · simp only [Body.refreshLevels, Body.modCond, Condition.num]
    simp [allChans, Body.meetsPoolLow]
    simp [Body.freeSlots]

/-- Bringing the level conditions up to date touches their pending fields alone. -/
theorem refreshLevels_but (b : Body) (env : Env) : AttentionBut [] env b (b.refreshLevels env) := by
  refine ⟨refreshLevels_levels b env, fun n => ⟨fun h => ?_, fun h _ => ?_⟩⟩
  · simp only [Body.refreshLevels, Body.modCond, Condition.num]
    simp only [isLevel, Condition.num, Bool.or_eq_true, beq_iff_eq] at h
    rcases h with h | h <;> subst h <;> simp
  · simp only [Body.refreshLevels, Body.modCond, Condition.num]
    simp only [isLevel, Condition.num, Bool.or_eq_false_iff, beq_eq_false_iff_ne] at h
    have h5 : (5 : Nat) ≠ n.val := fun e => h.1 (Fin.ext e.symm)
    have h6 : (6 : Nat) ≠ n.val := fun e => h.2 (Fin.ext e.symm)
    simp [Vector.getElem_set_ne, h5, h6]

/-- What a change without a send overflow ends with. -/
theorem finish_attention {b : Body} (h : NoOverflow b) (env : Env) :
    b.finish env = { b with att := (b.finish env).att } ∧ AttentionBut [] env b (b.finish env) := by
  rw [finish_clean h]
  exact ⟨rfl, refreshLevels_but b env⟩

end Sys2Proof.Laws
end

