-- ==== Sys2Proof/Laws/Settle.lean ====
section
/-! SUPPORT. What settling a channel does (R21), said once for every path that abandons a channel's work. -/

namespace Sys2Proof.Laws

open Sys2Proof.Machine

/-- The entries that satisfy a test, as a filtered list of their numbers. -/
theorem entriesWhere_eq (b : Body) (p : Live → Bool) :
    b.entriesWhere p = (List.finRange 1024).filter fun e => b.dir[e].live.any p := by
  have h : b.numbered = (List.finRange 1024).map fun e => (e, b.dir[e]) := by
    unfold Body.numbered
    apply List.ext_getElem
    · simp
    · intro n h1 h2
      simp
  unfold Body.entriesWhere
  rw [h, List.filter_map, List.map_map]
  simp only [Function.comp_def, List.map_id']

/-- The entry is on its way out, so that settling frees it (R21). -/
def leaving (r : Live) : Bool := r.st == .retireWait || r.st == .retireFencing || r.st == .removing

/-- What entries that leave hold, in the order of their list. -/
def leavers (b : Body) (es : List EntryNo) : List Live := es.filterMap fun e => b.dir[e].live.filter leaving

/-- What a list of leaving entries returns to the inventory (R18). -/
theorem giveBack_all : ∀ (rs : List Live) (v : Inventory), (∀ r ∈ rs, leaving r = true) →
    let w := rs.foldl (fun v r => v.giveBack r) v
    w = { v with spares := w.spares, slots := w.slots, exclusions := w.exclusions } ∧
    (∀ k, w.slots[k]? = if ∃ r ∈ rs, r.repl = some (.target (.pool k)) then v.slots[k]?.map fun _ => .free else v.slots[k]?) ∧
    (∀ g i, w.spare g i = if ∃ r ∈ rs, r.repl = some (.target (.device g i)) then (v.spare g i).map fun _ => .spent
      else v.spare g i) ∧
    w.exclusions = v.exclusions - rs.countP fun r => decide (r.repl = some .exclude ∧ r.key.row ≠ none)
  | [], v, _ => ⟨rfl, by simp, by simp, by simp⟩
  | r :: rs, v, h => by
    obtain ⟨h1, h2, h3, h4⟩ := giveBack_all rs (v.giveBack r) fun q hq => h q (List.mem_cons_of_mem _ hq)
    have hr := h r List.mem_cons_self
    have hst : ¬(r.st = .pending ∨ r.st = .fencing) := by
      simp only [leaving, Bool.or_eq_true, beq_iff_eq] at hr
      rcases hr with (hr | hr) | hr <;> simp [hr]
    have hrest : v.giveBack r = { v with
        spares := (v.giveBack r).spares, slots := (v.giveBack r).slots, exclusions := (v.giveBack r).exclusions } := by
      unfold Inventory.giveBack
      split <;> first | rfl | (split <;> rfl)
    have hslot : ∀ k, (v.giveBack r).slots[k]? =
        if r.repl = some (.target (.pool k)) then v.slots[k]?.map fun _ => .free else v.slots[k]? := by
      intro k
      unfold Inventory.giveBack
      split <;> rename_i hx
      · simp [hx]
      · simp [hx, Inventory.setSpare]
      · rename_i s
        simp only [Inventory.setSlot, hx, Option.some.injEq, Replacement.target.injEq, Target.pool.injEq, List.getElem?_set]
        by_cases hk : s = k
        · subst hk
          simp only [if_true]
          split
          · rename_i hl
            rw [List.getElem?_eq_getElem hl]
            rfl
          · rename_i hl
            rw [List.getElem?_eq_none (by omega)]
            rfl
        · simp [hk]
      · split <;> simp [hx]
    have hspare : ∀ g i, (v.giveBack r).spare g i =
        if r.repl = some (.target (.device g i)) then (v.spare g i).map fun _ => .spent else v.spare g i := by
      intro g i
      unfold Inventory.giveBack
      split <;> rename_i hx
      · simp [hx]
      · rename_i g' i'
        rw [if_neg hst, spare_setSpare]
        simp only [hx, Option.some.injEq, Replacement.target.injEq, Target.device.injEq]
        by_cases hh : g = g' ∧ i = i'
        · rw [if_pos hh, if_pos ⟨hh.1.symm, hh.2.symm⟩]
        · rw [if_neg hh, if_neg fun hh' => hh ⟨hh'.1.symm, hh'.2.symm⟩]
      · simp [hx, Inventory.setSlot, Inventory.spare]
      · split <;> simp [hx, Inventory.spare]
    have hexcl : (v.giveBack r).exclusions = v.exclusions - if r.repl = some .exclude ∧ r.key.row ≠ none then 1 else 0 := by
      unfold Inventory.giveBack
      split <;> rename_i hx
      · simp [hx]
      · simp [hx, Inventory.setSpare]
      · simp [hx, Inventory.setSlot]
      · cases hk : r.key.row <;> simp [hx]
    refine ⟨?_, fun k => ?_, fun g i => ?_, ?_⟩
    · rw [List.foldl_cons, h1, hrest]
    · rw [List.foldl_cons, h2, hslot]
      by_cases h5 : ∃ q ∈ rs, q.repl = some (.target (.pool k)) <;> by_cases h6 : r.repl = some (.target (.pool k)) <;>
        simp [h5, h6, Function.comp_def]
    · rw [List.foldl_cons, h3, hspare]
      by_cases h5 : ∃ q ∈ rs, q.repl = some (.target (.device g i)) <;>
        by_cases h6 : r.repl = some (.target (.device g i)) <;> simp [h5, h6, Function.comp_def]
    · rw [List.foldl_cons, h4, hexcl, List.countP_cons]
      simp only [decide_eq_true_eq]
      omega

/-- What settling one entry changes, by whether it leaves. -/
theorem settleEntry_stays {b : Body} {e : EntryNo} (h : ∀ r, b.dir[e].live = some r → leaving r = false) :
    b.settleEntry e = { b with dir := b.dir.set e b.dir[e].settled } := by
  have hself : b.dir.set e b.dir[e] = b.dir := Vector.set_getElem_self e.isLt
  unfold Body.settleEntry Entry.settled
  cases hl : b.dir[e].live with
  | none => simp only [hself]
  | some r =>
    have := h r hl
    cases hs : r.st <;> simp only [leaving, hs] at this <;>
      first
        | exact absurd this (by decide)
        | (simp only [hs, hself]; done)
        | simp only [hs, Body.setEntryState, hl, Body.changeEntry]

theorem settleEntry_leaves {b : Body} {e : EntryNo} {r : Live} (hl : b.dir[e].live = some r) (h : leaving r = true) :
    b.settleEntry e = b.freeEntry e ∧ b.dir[e].settled = ⟨b.dir[e].gen + 1#8, none⟩ := by
  unfold Body.settleEntry Entry.settled
  cases hs : r.st <;> simp only [leaving, hs] at h <;> first | exact absurd h (by decide) | simp only [hl, hs, and_self]

/-- What settling a list of entries of one channel changes. -/
theorem settleEntries_eq (c : ChanId) : ∀ (es : List EntryNo) (b : Body), es.Nodup →
    (∀ e ∈ es, ∃ r, b.dir[e].live = some r ∧ r.key.chan = c) →
    let b' := es.foldl Body.settleEntry b
    b' = { b with dir := b'.dir, inv := b'.inv, chan := b'.chan, fence := b'.fence } ∧
    (∀ e : EntryNo, b'.dir[e] = if e ∈ es then b.dir[e].settled else b.dir[e]) ∧
    b'.inv = b.inv.set c (b.inv[c].map fun v => (leavers b es).foldl (fun v r => v.giveBack r) v) ∧
    (∀ f : Fin 8, b'.fence[f] = { b.fence[f] with queue := b'.fence[f].queue } ∧
      (f.val ≠ c.val → b'.fence[f].queue = b.fence[f].queue)) ∧
    ∀ d : ChanId, b'.chan[d] = if d = c
      then
        { b.chan[d] with
          repaired := b.chan[d].repaired.filter (fun k =>
            (leavers b es).all (fun r => ¬(k.bank = r.key.bank ∧ some k.row = r.key.row))) }
      else b.chan[d]
  | [], b, _, _ => by
    refine ⟨rfl, by simp, ?_, by simp, ?_⟩
    · have : b.inv.set c b.inv[c] = b.inv := Vector.set_getElem_self c.isLt
      simp only [List.foldl_nil, leavers, List.filterMap_nil]
      rw [show (b.inv[c].map fun v => v) = b.inv[c] from by simp, this]
    · simp [leavers]
  | e :: es, b, hn, hl => by
    obtain ⟨hne, hn'⟩ := List.nodup_cons.1 hn
    obtain ⟨r, hr, hc⟩ := hl e List.mem_cons_self
    have other : ∀ (b1 : Body), (∀ d : EntryNo, d ≠ e → b1.dir[d] = b.dir[d]) → leavers b1 es = leavers b es ∧
        ∀ d ∈ es, ∃ q, b1.dir[d].live = some q ∧ q.key.chan = c := by
      intro b1 h
      constructor
      · unfold leavers
        apply List.filterMap_congr
        intro d hd
        rw [h d fun he => hne (he ▸ hd)]
      · intro d hd
        rw [h d fun he => hne (he ▸ hd)]
        exact hl d (List.mem_cons_of_mem _ hd)
    have dirs : ∀ (x : Entry) (d : EntryNo), d ≠ e → (b.dir.set e x)[d] = b.dir[d] := by
      intro x d hd
      have : e.val ≠ d.val := fun h => hd (Fin.ext h.symm)
      simp [Vector.getElem_set_ne, this]
    cases hv : leaving r with
    | false =>
      have h1 := settleEntry_stays (b := b) (e := e) fun q hq => by rw [hr] at hq; cases hq; exact hv
      obtain ⟨ho, hl'⟩ := other (b.settleEntry e) (by rw [h1]; exact dirs _)
      obtain ⟨i1, i2, i3, i4, i5⟩ := settleEntries_eq c es (b.settleEntry e) hn' hl'
      have hlv : leavers b (e :: es) = leavers b es := by
        simp only [leavers, List.filterMap_cons, hr, Option.filter_some, hv, Bool.false_eq_true, if_false]
      rw [ho] at i3 i5
      refine ⟨?_, fun d => ?_, ?_, fun f => ?_, fun d => ?_⟩
      · rw [List.foldl_cons, i1, h1]
      · rw [List.foldl_cons, i2, h1]
        by_cases hd : d = e
        · subst hd
          simp [hne]
        · rw [dirs _ d hd]
          simp [hd]
      · rw [List.foldl_cons, i3, hlv, h1]
      · have := i4 f
        rw [List.foldl_cons]
        rw [h1] at this
        rw [h1]
        exact this
      · rw [List.foldl_cons, i5, hlv, h1]
    | true =>
      obtain ⟨h1, h2⟩ := settleEntry_leaves hr hv
      obtain ⟨b1, hb, f1, f2, f3⟩ := freeEntry_eq hr
      rw [hb] at h1
      subst hc
      have hdir : b1.dir = b.dir.set e ⟨b.dir[e].gen + 1#8, none⟩ := by rw [f1]
      have hinv : b1.inv = b.inv.set r.key.chan (b.inv[r.key.chan].map (·.giveBack r)) := by rw [f1]
      obtain ⟨ho, hl'⟩ := other b1 (by rw [hdir]; exact dirs _)
      obtain ⟨i1, i2, i3, i4, i5⟩ := settleEntries_eq r.key.chan es b1 hn' hl'
      have hlv : leavers b (e :: es) = r :: leavers b es := by
        simp only [leavers, List.filterMap_cons, hr, Option.filter_some, hv, if_true]
      rw [ho] at i3 i5
      refine ⟨?_, fun d => ?_, ?_, fun f => ?_, fun d => ?_⟩
      · rw [List.foldl_cons, h1, i1, f1]
      · rw [List.foldl_cons, h1, i2, hdir]
        by_cases hd : d = e
        · subst hd
          rw [if_neg hne, if_pos List.mem_cons_self, h2]
          simp
        · rw [dirs _ d hd]
          simp [hd]
      · rw [List.foldl_cons, h1, i3, hlv, hinv]
        simp [Function.comp_def]
      · rw [List.foldl_cons, h1]
        have h3 := i4 f
        have h4 := f2 f
        constructor
        · rw [h3.1, h4]
          split <;> rfl
        · intro hf
          rw [h3.2 hf, h4, if_neg hf]
      · rw [List.foldl_cons, h1, i5, hlv, f3]
        by_cases hd : d = r.key.chan
        · simp only [hd, if_true, List.all_cons, List.filter_filter]
          congr 1
          apply List.filter_congr
          intro k _
          rw [Bool.and_comm]
        · simp only [hd, if_false]

/-- The entries that leave are those that settling frees (R21). -/
theorem mem_leavers (b : Body) (c : ChanId) (r : Live) :
    r ∈ leavers b (b.entriesWhere fun q => q.key.chan == c) ↔ ∃ e, SettleFrees b c e r := by
  simp only [leavers, List.mem_filterMap, mem_entriesWhere, Option.filter_eq_some_iff, SettleFrees, leaving]
  constructor
  · rintro ⟨e, ⟨q, hq, hc⟩, hl, hv⟩
    rw [hl] at hq
    cases hq
    refine ⟨e, hl, by simpa using hc, ?_⟩
    simpa [or_assoc] using hv
  · rintro ⟨e, hl, hc, hv⟩
    exact ⟨e, ⟨r, hl, by simpa using hc⟩, hl, by simpa [or_assoc] using hv⟩

/-- Counting over the entries that leave is counting over the directory. -/
theorem countP_leavers (b : Body) (c : ChanId) (p : Live → Bool) :
    (leavers b (b.entriesWhere fun q => q.key.chan == c)).countP p =
      (List.finRange 1024).countP fun e => b.dir[e].live.any fun r => r.key.chan == c && leaving r && p r := by
  rw [entriesWhere_eq, leavers, List.countP_filterMap, List.countP_filter]
  generalize List.finRange 1024 = es
  refine List.countP_congr fun e _ => ?_
  cases hl : b.dir[e].live with
  | none => simp
  | some r =>
    cases h1 : leaving r <;> cases h2 : p r <;> cases h3 : r.key.chan == c <;> simp [Option.filter_some, h1, h2, h3]

/-- R21: settling a channel. -/
theorem settle_settled (b : Body) (c : ChanId) : Settled (· = c) b (b.settle c) := by
  have hn : (b.entriesWhere fun q => q.key.chan == c).Nodup := (entriesWhere_sorted b _).imp fun h => ne_of_lt h
  obtain ⟨h1, h2, h3, h4, h5⟩ := settleEntries_eq c (b.entriesWhere fun q => q.key.chan == c) b hn fun e he => by
    obtain ⟨r, hr, hc⟩ := (mem_entriesWhere _ _ _).1 he
    exact ⟨r, hr, by simpa using hc⟩
  have hs : b.settle c = ((b.entriesWhere fun q => q.key.chan == c).foldl Body.settleEntry b).modFence c
      fun u => { u with queue := [] } := rfl
  have mem := mem_leavers b c
  have cnt := countP_leavers b c
  generalize (b.entriesWhere fun q => q.key.chan == c).foldl Body.settleEntry b = x at *
  generalize hL : leavers b (b.entriesWhere fun q => q.key.chan == c) = L at *
  have hleave : ∀ r ∈ L, leaving r = true := by
    intro r hr
    rw [← hL] at hr
    simp only [leavers, List.mem_filterMap, Option.filter_eq_some_iff] at hr
    obtain ⟨_, _, _, h⟩ := hr
    exact h
  rw [hs]
  refine ⟨?_, fun e => ⟨?_, ?_⟩, fun d => ⟨?_, ?_⟩, fun f => ?_, fun d f hf => ⟨?_, ?_⟩, fun d => ⟨?_, ?_, ?_⟩⟩
  · simp only [modFence_dir, modFence_inv, modFence_chan]
    unfold Body.modFence
    split <;> rw [h1]
  · rintro ⟨r, hr, hc⟩
    simp only [modFence_dir, h2]
    rw [if_pos ((mem_entriesWhere _ _ _).2 ⟨r, hr, by simpa using hc⟩)]
  · intro h
    simp only [modFence_dir, h2]
    rw [if_neg]
    intro he
    obtain ⟨r, hr, hc⟩ := (mem_entriesWhere _ _ _).1 he
    exact h r hr (by simpa using hc)
  · intro h
    simp only [modFence_inv, h3]
    by_cases hd : d = c
    · subst hd
      have : b.inv[d] = none := h.resolve_left fun hh => hh rfl
      simp only [Fin.getElem_fin] at this
      simp [this]
    · have : c.val ≠ d.val := fun hh => hd (Fin.ext hh.symm)
      simp [Vector.getElem_set_ne, this]
  · rintro v rfl hv
    obtain ⟨g1, g2, g3, g4⟩ := giveBack_all L v hleave
    refine ⟨L.foldl (fun v r => v.giveBack r) v, ?_, g1, fun k => ⟨?_, ?_⟩, fun g i => ⟨?_, ?_⟩, ?_⟩
    · simp only [modFence_inv, h3]
      simp only [Fin.getElem_fin] at hv
      simp [hv]
    · rintro ⟨e, r, hf, hr⟩
      rw [g2, if_pos ⟨r, (mem r).2 ⟨e, hf⟩, hr⟩]
    · intro h
      rw [g2, if_neg]
      rintro ⟨r, hr, hk⟩
      obtain ⟨e, he⟩ := (mem r).1 hr
      exact h e r he hk
    · rintro ⟨e, r, hf, hr⟩
      rw [g3, if_pos ⟨r, (mem r).2 ⟨e, hf⟩, hr⟩]
    · intro h
      rw [g3, if_neg]
      rintro ⟨r, hr, hk⟩
      obtain ⟨e, he⟩ := (mem r).1 hr
      exact h e r he hk
    · rw [g4, cnt]
      refine congrArg (v.exclusions - ·) ?_
      generalize List.finRange 1024 = es
      refine List.countP_congr fun e _ => ?_
      cases hl : b.dir[e].live with
      | none => simp
      | some r => simp [leaving, or_assoc, and_assoc]
  · rw [modFence_fence]
    split
    · rw [(h4 f).1]
    · rw [(h4 f).1]
  · rintro rfl
    rw [modFence_fence, if_pos hf]
  · intro hd
    have : f.val ≠ c.val := fun h => hd (Fin.ext (hf ▸ h))
    rw [modFence_fence, if_neg this]
    exact (h4 f).2 this
  · simp only [modFence_chan, h5]
    split <;> rfl
  · intro hd
    simp only [modFence_chan, h5, if_neg hd]
  · rintro rfl
    simp only [modFence_chan, h5, if_true]
    refine ⟨List.filter_sublist, fun k => ?_⟩
    rw [List.mem_filter, List.all_eq_true]
    constructor
    · rintro ⟨hk, hall⟩
      refine ⟨hk, fun e r he hh => ?_⟩
      have := hall r ((mem r).2 ⟨e, he⟩)
      simp only [decide_eq_true_eq] at this
      exact this ⟨hh.1.symm, hh.2.symm⟩
    · rintro ⟨hk, hall⟩
      refine ⟨hk, fun r hr => ?_⟩
      obtain ⟨e, he⟩ := (mem r).1 hr
      simp only [decide_eq_true_eq]
      exact fun hh => hall e r he ⟨hh.1.symm, hh.2.symm⟩

end Sys2Proof.Laws
end

