-- ==== Sys2Proof/Laws/Links.lean ====
section
/-! SUPPORT. What the arbiter's scan, a failure and the loss of a link leave of the links and of the channel states, and why the
end of a change leaves no send overflow (R140), and what entries keep through all of it. -/

namespace Sys2Proof.Laws

open Sys2Proof.Machine

/-- A link after frames have been offered to it: a link that is not UP, or that has met an overflow, is as before. -/
def Offered (k k' : Link) : Prop := k'.state = k.state ∧ (k.overflow = true ∨ k.state ≠ .up → k' = k)

theorem Offered.refl (k : Link) : Offered k k := ⟨rfl, fun _ => rfl⟩

theorem Offered.trans {k k' k'' : Link} (h : Offered k k') (h' : Offered k' k'') : Offered k k'' := by
  refine ⟨h'.1.trans h.1, fun hh => ?_⟩
  have := h.2 hh
  subst this
  exact h'.2 hh

theorem offered_offer (k : Link) (q : QFrame) : Offered k (k.offer q) := by
  unfold Link.offer
  split
  · rename_i h
    split
    · exact ⟨rfl, fun hh => by rcases hh with hh | hh <;> simp_all⟩
    · exact ⟨rfl, fun hh => by rcases hh with hh | hh <;> simp_all⟩
  · exact Offered.refl k

/-- What the arbiter leaves: every channel in its state, and frames offered at most. -/
def Passes (b b' : Body) : Prop :=
  b' = { b with chan := b'.chan, link := b'.link } ∧
  ∀ d : ChanId, b'.chan[d].state = b.chan[d].state ∧ Offered b.link[d] b'.link[d]

theorem Passes.refl (b : Body) : Passes b b := ⟨rfl, fun _ => ⟨rfl, Offered.refl _⟩⟩

theorem Passes.trans {b b' b'' : Body} (h : Passes b b') (h' : Passes b' b'') : Passes b b'' := by
  refine ⟨?_, fun d => ⟨(h'.2 d).1.trans (h.2 d).1, (h.2 d).2.trans (h'.2 d).2⟩⟩
  rw [h'.1, h.1]

theorem passes_offer (b : Body) (c : ChanId) (m : Msg) (n : Note) : Passes b (b.offer c m n) := by
  refine ⟨rfl, fun d => ⟨rfl, ?_⟩⟩
  by_cases h : c = d
  · subst h
    simp only [Body.offer, modLink_same]
    exact offered_offer _ _
  · rw [offer_other b m n h]
    exact Offered.refl _

theorem passes_modChan (b : Body) (c : ChanId) (f : Channel → Channel) (h : (f b.chan[c]).state = b.chan[c].state) :
    Passes b (b.modChan c f) := by
  refine ⟨rfl, fun d => ⟨?_, Offered.refl _⟩⟩
  by_cases hd : c = d
  · subst hd
    rw [modChan_same, h]
  · rw [modChan_other b f hd]

/-- R103: a visit of the arbiter. -/
theorem passes_visit (env : Env) (b : Body) (c : ChanId) : Passes b (b.visit env c) := by
  unfold Body.visit
  split
  · split
    · unfold Body.startStep
      dsimp only
      split
      · exact passes_modChan b c _ rfl
      · exact (passes_modChan b c _ rfl).trans (passes_offer _ _ _ _)
    · exact Passes.refl b
  · exact Passes.refl b
  · exact Passes.refl b

/-- R103: a scan of the arbiter. -/
theorem passes_scan (env : Env) (b : Body) : Passes b (b.scan env) :=
  foldl_keeps (P := fun x => Passes b x) (fun x c h => h.trans (passes_visit env x c)) allChans b (Passes.refl b)

/-- R85, R104: a failure leaves the other channels in their states. -/
theorem failChannel_others (env : Env) (b : Body) (c : ChanId) (cause : Cause) :
    (b.failChannel env c cause).chan[c].state = .failed ∧ ∀ d : ChanId,
      (d ≠ c → (b.failChannel env c cause).chan[d].state = b.chan[d].state) ∧
      Offered b.link[d] (b.failChannel env c cause).link[d] := by
  unfold Body.failChannel
  split
  · rename_i h
    exact ⟨h, fun d => ⟨fun _ => rfl, Offered.refl _⟩⟩
  · dsimp only
    have h1 : Passes b (if b.chan[c].state = .test then b.offer c .halt .none else b) := by
      split
      · exact passes_offer _ _ _ _
      · exact Passes.refl b
    generalize (if b.chan[c].state = .test then b.offer c .halt .none else b) = b1 at *
    have h2 : ∀ d : ChanId, (b1.liftFence c).chan[d] = b1.chan[d] ∧ Offered b1.link[d] (b1.liftFence c).link[d] := by
      intro d
      unfold Body.liftFence
      split
      · exact ⟨rfl, Offered.refl _⟩
      · simp only [modFence_chan, modFence_link]
        exact ⟨rfl, ((passes_offer b1 c _ _).2 d).2⟩
    generalize b1.liftFence c = b2 at *
    have hs := settle_settled (b2.modChan c fun ch => { ch.quiet with state := .failed, cause := some cause }) c
    generalize ((b2.modChan c fun ch => { ch.quiet with state := .failed, cause := some cause }).settle c) = b3 at *
    obtain ⟨s1, _, _, _, _, s6⟩ := hs
    have hl : b3.link = b2.link := by rw [s1]; rfl
    have hst : ∀ d : ChanId, b3.chan[d].state = (b2.modChan c fun ch =>
        { ch.quiet with state := .failed, cause := some cause }).chan[d].state := fun d => by rw [(s6 d).1]
    have main : (b3.raise .channelFailed (.failed c cause)).chan[c].state = .failed ∧ ∀ d : ChanId,
        (d ≠ c → (b3.raise .channelFailed (.failed c cause)).chan[d].state = b.chan[d].state) ∧
        Offered b.link[d] (b3.raise .channelFailed (.failed c cause)).link[d] := by
      refine ⟨?_, fun d => ⟨fun hd => ?_, ?_⟩⟩
      · rw [raise_chan, hst, modChan_same]
      · rw [raise_chan, hst, modChan_other _ _ (Ne.symm hd), (h2 d).1, (h1.2 d).1]
      · rw [raise_link, hl]
        exact (h1.2 d).2.trans (h2 d).2
    generalize b3.raise .channelFailed (.failed c cause) = b4 at *
    split
    · have := passes_scan env b4
      exact ⟨(this.2 c).1.trans main.1, fun d => ⟨fun hd => (this.2 d).1.trans ((main.2 d).1 hd), (main.2 d).2.trans (this.2 d).2⟩⟩
    · exact main

/-- R119: what the entry to LOST leaves of links and channel states. -/
theorem enterLost_others (b : Body) (c : ChanId) : (b.enterLost c).link = b.link ∧ (b.enterLost c).chan[c].state = .lost ∧
    ∀ d : ChanId, d ≠ c → (b.enterLost c).chan[d].state = b.chan[d].state := by
  unfold Body.enterLost
  dsimp only
  have hs := settle_settled (b.modFence c fun u => { u with out := none }) c
  generalize (b.modFence c fun u => { u with out := none }).settle c = b1 at *
  obtain ⟨s1, _, _, _, _, s6⟩ := hs
  have hf : ∀ (ks : List Key) (x : Body), (ks.foldl (fun x k => x.raise .refillNeeded (.key k)) x).chan = x.chan ∧
      (ks.foldl (fun x k => x.raise .refillNeeded (.key k)) x).link = x.link := by
    intro ks x
    exact foldl_keeps (P := fun y => y.chan = x.chan ∧ y.link = x.link)
      (f := fun y k => y.raise .refillNeeded (.key k)) (fun y k h => h) ks x ⟨rfl, rfl⟩
  refine ⟨?_, ?_, fun d hd => ?_⟩
  · rw [modChan_link, raise_link, (hf _ _).2, s1, modFence_link]
  · rw [modChan_same]
  · rw [modChan_other _ _ (Ne.symm hd), raise_chan]
    rw [(hf _ b1).1, (s6 d).1, modFence_chan]

/-- What the loss of its link makes of a channel's state (R86). -/
def ChanState.afterLoss : ChanState → ChanState
  | .test | .ready => .failed
  | .idle => .down
  | .service | .resync => .lost
  | x => x

/-- R86: the loss of a link changes its own channel's state, and offers frames to the other links at most. -/
theorem linkLost_others (env : Env) (b : Body) (c : ChanId) :
    (b.linkLost env c).chan[c].state = ChanState.afterLoss b.chan[c].state ∧ ∀ d : ChanId,
      (d ≠ c → (b.linkLost env c).chan[d].state = b.chan[d].state) ∧ Offered b.link[d] (b.linkLost env c).link[d] := by
  unfold Body.linkLost
  cases h : b.chan[c].state <;> dsimp only [ChanState.afterLoss]
  case test => exact failChannel_others env b c _
  case ready => exact failChannel_others env b c _
  case service =>
    obtain ⟨h1, h2, h3⟩ := enterLost_others b c
    exact ⟨h2, fun d => ⟨h3 d, by rw [h1]; exact Offered.refl _⟩⟩
  case resync =>
    obtain ⟨h1, h2, h3⟩ := enterLost_others b c
    exact ⟨h2, fun d => ⟨h3 d, by rw [h1]; exact Offered.refl _⟩⟩
  case idle =>
    refine ⟨by rw [modChan_same], fun d => ⟨fun hd => ?_, Offered.refl _⟩⟩
    rw [modChan_other _ _ (Ne.symm hd)]
  all_goals exact ⟨h, fun d => ⟨fun _ => rfl, Offered.refl _⟩⟩

/-- R129: a link that leaves UP, and what that does to the others. -/
theorem linkDown_others (env : Env) (b : Body) (c : ChanId) (count : Counters → Counters) :
    (b.linkDown env c count).link[c] = b.link[c].drop c count ∧
    (b.linkDown env c count).chan[c].state = ChanState.afterLoss b.chan[c].state ∧ ∀ d : ChanId, d ≠ c →
      (b.linkDown env c count).chan[d].state = b.chan[d].state ∧ Offered b.link[d] (b.linkDown env c count).link[d] := by
  obtain ⟨h1, h2⟩ := linkLost_others env (b.modLink c fun k => k.drop c count) c
  refine ⟨?_, h1, fun d hd => ⟨(h2 d).1 hd, ?_⟩⟩
  · have := (h2 c).2.2
    rw [modLink_same] at this
    exact this (Or.inr (by simp [Link.drop]))
  · have := (h2 d).2
    rw [modLink_other _ _ (Ne.symm hd)] at this
    exact this

/-- The links that can still meet an overflow, or have met one. -/
def openLinks (b : Body) : Nat := allChans.countP fun l => b.link[l].overflow || b.link[l].state == .up

/-- Every closing of an overflowed link leaves fewer links that can overflow. -/
theorem openLinks_drop (env : Env) (b : Body) (c : ChanId) (count : Counters → Counters) (h : b.link[c].overflow = true) :
    openLinks (b.linkDown env c count) < openLinks b := by
  obtain ⟨h1, _, h3⟩ := linkDown_others env b c count
  have hle : ∀ l : ChanId, ((b.linkDown env c count).link[l].overflow || (b.linkDown env c count).link[l].state == .up) = true →
      (b.link[l].overflow || b.link[l].state == .up) = true := by
    intro l hl
    by_cases hc : l = c
    · subst hc
      rw [h1] at hl
      simp [Link.drop] at hl
    · obtain ⟨g1, g2⟩ := (h3 l hc).2
      by_cases hu : b.link[l].state = .up
      · rw [hu]
        simp
      · rw [g2 (Or.inr hu)] at hl
        exact hl
  unfold openLinks
  have hsub : ∀ ls : List ChanId, ls.countP (fun l => (b.linkDown env c count).link[l].overflow ||
      (b.linkDown env c count).link[l].state == .up) ≤ ls.countP fun l => b.link[l].overflow || b.link[l].state == .up :=
    fun ls => List.countP_mono_left fun l _ => hle l
  obtain ⟨as, bs, hab⟩ := List.append_of_mem (List.mem_finRange c)
  have hall : allChans = as ++ c :: bs := hab
  rw [hall, List.countP_append, List.countP_append, List.countP_cons, List.countP_cons]
  have hc : ((b.linkDown env c count).link[c].overflow || (b.linkDown env c count).link[c].state == .up) = false := by
    rw [h1]
    simp [Link.drop]
  rw [hc, h]
  have ha := hsub as
  have hb := hsub bs
  simp only [Bool.true_or, if_true, Bool.false_eq_true, if_false]
  omega

/-- R140: with enough turns no overflow is left. -/
theorem closeOverflows_noOverflow (env : Env) : ∀ (n : Nat) (b : Body), openLinks b ≤ n → NoOverflow (b.closeOverflows env n)
  | 0, b, h => by
    intro l
    cases ho : b.link[l].overflow with
    | false => exact ho
    | true =>
      have : 0 < openLinks b := List.countP_pos_iff.2 ⟨l, List.mem_finRange l, by rw [ho]; rfl⟩
      omega
  | n + 1, b, h => by
    unfold Body.closeOverflows
    split
    · rename_i hf
      intro l
      exact Bool.eq_false_iff.2 (List.find?_eq_none.1 hf l (List.mem_finRange l))
    · rename_i c hc
      have ho : b.link[c].overflow = true := by simpa using List.find?_some hc
      have := openLinks_drop env b c Counters.sendOverflow ho
      exact closeOverflows_noOverflow env n _ (by omega)

theorem openLinks_le (b : Body) : openLinks b ≤ 12 := by
  have := List.countP_le_length (p := fun l : ChanId => b.link[l].overflow || b.link[l].state == .up) (l := allChans)
  simpa [openLinks, allChans] using this

/-- R140: at the end of a change no overflow is left. -/
theorem finish_noOverflow (env : Env) (b : Body) : NoOverflow (b.finish env) :=
  closeOverflows_noOverflow env 12 b (openLinks_le b)

/-- R140: a link that met an overflow is the one brought down next. -/
theorem closeOverflows_step {env : Env} {n : Nat} {b : Body} {c : ChanId}
    (h : (allChans.find? fun c => b.link[c].overflow) = some c) :
    b.closeOverflows env (n + 1) = (b.linkDown env c Counters.sendOverflow).closeOverflows env n := by
  rw [Body.closeOverflows, h]

/-- What a closing of overflows does to a link that met one, and to its channel. -/
theorem closeOverflows_link (env : Env) (l : ChanId) : ∀ (n : Nat) (b : Body), openLinks b ≤ n → b.link[l].overflow = true →
    (b.closeOverflows env n).link[l] = b.link[l].drop l Counters.sendOverflow ∧
    (b.closeOverflows env n).chan[l].state = ChanState.afterLoss b.chan[l].state
  | 0, b, h, ho => by
    have : 0 < openLinks b := List.countP_pos_iff.2 ⟨l, List.mem_finRange l, by rw [ho]; rfl⟩
    omega
  | n + 1, b, h, ho => by
    cases hc : allChans.find? fun c => b.link[c].overflow with
    | none => exact absurd ho (List.find?_eq_none.1 hc l (List.mem_finRange l))
    | some c =>
      rw [closeOverflows_step hc]
      have hco : b.link[c].overflow = true := by simpa using List.find?_some hc
      have hlt := openLinks_drop env b c Counters.sendOverflow hco
      obtain ⟨h1, h2, h3⟩ := linkDown_others env b c Counters.sendOverflow
      by_cases hl : l = c
      · subst hl
        have keep := closeOverflows_keeps (P := fun x => x.link[l] = b.link[l].drop l Counters.sendOverflow ∧
            x.chan[l].state = ChanState.afterLoss b.chan[l].state) env (by
          rintro x d ⟨hx1, hx2⟩ hd
          obtain ⟨i1, i2, i3⟩ := linkDown_others env x d Counters.sendOverflow
          have hne : l ≠ d := by
            rintro rfl
            rw [hx1] at hd
            simp [Link.drop] at hd
          refine ⟨?_, (i3 l hne).1.trans hx2⟩
          rw [(i3 l hne).2.2 (Or.inr (by rw [hx1]; simp [Link.drop])), hx1]) n _ ⟨h1, h2⟩
        exact keep
      · obtain ⟨g1, g2⟩ := h3 l hl
        have g2 := g2.2 (Or.inl ho)
        have := closeOverflows_link env l n (b.linkDown env c Counters.sendOverflow) (by omega) (by rw [g2]; exact ho)
        rw [g2, g1] at this
        exact this

/-! ### What entries keep -/

/-- Entry `e` is not on its way out and has the replacement `x`. -/
def Stays (e : EntryNo) (x : Option Replacement) (b : Body) : Prop :=
  ∃ r, b.dir[e].live = some r ∧ leaving r = false ∧ r.repl = x

theorem stays_of_dir {e : EntryNo} {x : Option Replacement} {b b' : Body} (h : b'.dir = b.dir) (hs : Stays e x b) : Stays e x b' := by
  unfold Stays
  rw [h]
  exact hs

/-- R21: settling a channel keeps an entry's replacement, but for one on its way out. -/
theorem settle_stays {e : EntryNo} {x : Option Replacement} {b : Body} (c : ChanId) (hs : Stays e x b) : Stays e x (b.settle c) := by
  obtain ⟨r, hl, hv, hx⟩ := hs
  obtain ⟨-, h, -⟩ := settle_settled b c
  by_cases hc : r.key.chan = c
  · have := (h e).1 ⟨r, hl, hc⟩
    unfold Stays
    rw [this]
    unfold Entry.settled
    rw [hl]
    dsimp only
    cases hst : r.st <;> simp only [leaving, hst] at hv <;> first
      | exact absurd hv (by decide)
      | exact ⟨r, hl, by simp only [leaving, hst]; rfl, hx⟩
      | exact ⟨_, rfl, rfl, hx⟩
  · refine ⟨r, ?_, hv, hx⟩
    rw [(h e).2 fun q hq => by rw [hl] at hq; cases hq; exact hc]
    exact hl

theorem failChannel_stays {e : EntryNo} {x : Option Replacement} {b : Body} (env : Env) (c : ChanId) (cause : Cause)
    (hs : Stays e x b) : Stays e x (b.failChannel env c cause) := by
  unfold Body.failChannel
  split
  · exact hs
  · dsimp only
    have h1 : Stays e x (if b.chan[c].state = .test then b.offer c .halt .none else b) := by split <;> exact hs
    generalize (if b.chan[c].state = .test then b.offer c .halt .none else b) = b1 at *
    have h2 : (b1.liftFence c).dir = b1.dir := by
      unfold Body.liftFence
      split
      · rfl
      · simp only [modFence_dir]
        rfl
    have h3 := settle_stays c (b := (b1.liftFence c).modChan c fun ch => { ch.quiet with state := .failed, cause := some cause })
      (stays_of_dir h2 h1)
    have h4 := stays_of_dir (b' := Body.raise _ .channelFailed (.failed c cause)) rfl h3
    split
    · refine stays_of_dir ?_ h4
      rw [(passes_scan env _).1]
    · exact h4

theorem enterLost_stays {e : EntryNo} {x : Option Replacement} {b : Body} (c : ChanId) (hs : Stays e x b) :
    Stays e x (b.enterLost c) := by
  unfold Body.enterLost
  dsimp only
  have h1 := settle_stays c (stays_of_dir (modFence_dir b c fun u => { u with out := none }) hs)
  have hf : ∀ (ks : List Key) (y : Body), Stays e x y → Stays e x (ks.foldl (fun y k => y.raise .refillNeeded (.key k)) y) :=
    fun ks y => foldl_keeps (P := Stays e x) (f := fun y k => y.raise .refillNeeded (.key k)) (fun _ _ h => h) ks y
  exact hf _ _ h1

theorem linkDown_stays {e : EntryNo} {x : Option Replacement} {b : Body} (env : Env) (c : ChanId) (count : Counters → Counters)
    (hs : Stays e x b) : Stays e x (b.linkDown env c count) := by
  unfold Body.linkDown
  have hs : Stays e x (b.modLink c fun k => k.drop c count) := hs
  generalize b.modLink c (fun k => k.drop c count) = b1 at *
  unfold Body.linkLost
  cases b1.chan[c].state <;> dsimp only <;> first
    | exact failChannel_stays env c _ hs
    | exact enterLost_stays c hs
    | exact hs

theorem closeOverflows_stays {e : EntryNo} {x : Option Replacement} (env : Env) : ∀ (n : Nat) (b : Body), Stays e x b →
    Stays e x (b.closeOverflows env n)
  | 0, b, hs => hs
  | n + 1, b, hs => by
    rw [Body.closeOverflows]
    split
    · exact hs
    · exact closeOverflows_stays env n _ (linkDown_stays env _ _ hs)

/-- At the end of a change an entry has the replacement it had, but for one on its way out. -/
theorem finish_stays {e : EntryNo} {x : Option Replacement} {b : Body} (env : Env) (hs : Stays e x b) : Stays e x (b.finish env) :=
  stays_of_dir rfl (closeOverflows_stays env 12 b hs)

end Sys2Proof.Laws
end

