-- ==== Sys2Proof/Laws/Order.lean ====
section
/-! SUPPORT. The free order of expiries is a rearrangement of them. -/

namespace Sys2Proof.Laws

open Sys2Proof.Machine

theorem insertFree_perm (n : Nat) (c : Instr) (l : List Instr) : (insertFree n c l).Perm (c :: l) := by
  cases l with
  | nil => exact List.Perm.refl _
  | cons d ds =>
    refine List.perm_insertIdx _ _ ?_
    have := Nat.mod_lt (Config.freeOrder n) (y := ds.length + 2) (by omega)
    simp
    omega

theorem freeOrdered_perm : ∀ (l : List Instr) (n : Nat), (freeOrdered n l).Perm l
  | [], _ => List.Perm.refl _
  | c :: cs, _ => (insertFree_perm _ _ _).trans ((freeOrdered_perm cs _).cons c)

end Sys2Proof.Laws
end

