-- ==== Sys2Proof/Laws/Requests.lean ====
section
/-! SUPPORT. From an answer of a request's meaning to the statement that it answers so, what a port command leaves, how a key
is found, and how a request frame is read. -/

namespace Sys2Proof.Laws

open Sys2Proof.Machine

/-- A request whose meaning answers so is answered so. -/
theorem answers_of {s t : State} {p : PortId} {tag : Byte} {rq : Request} {act : Request → Option (State → Answer)}
    {f : State → Answer} {st : Status} {payload : List Byte} (h : s.Asked p tag rq)
    (he : exec (rq.command p) s = serve p act s) (ha : act rq = some f) (hf : f s = ⟨t, st, payload⟩) :
    Answers s p tag rq t st payload := by
  unfold Answers
  rw [he, serve_answers h ha, hf]

/-- A request whose meaning refuses it is refused. -/
theorem refused_of {s : State} {p : PortId} {tag : Byte} {rq : Request} {act : Request → Option (State → Answer)}
    {f : State → Answer} {st : Status} (h : s.Asked p tag rq) (he : exec (rq.command p) s = serve p act s)
    (ha : act rq = some f) (hf : f s = s.refuse st) : Refused s p tag rq st := answers_of h he ha hf

/-- A request command does nothing while the executor is not carrying out a request of its name (log 2). -/
theorem request_idle {s : State} {p : PortId} {rq : Request}
    (h : ∀ tag x, s.executing p = some (tag, x) → x.command p ≠ rq.command p) : exec (rq.command p) s = .next s := by
  cases rq <;> refine serve_idle fun tag x hx => ?_ <;> have hn := h tag x hx <;> clear h hx <;>
    cases x <;> first
      | rfl
      | exact absurd rfl hn

@[simp] theorem port_dispatch (s : State) (p : PortId) : s.dispatch.port p = s.port p := by cases p <;> simp [State.port]

/-- What a command of one port leaves: the other port's record, all that is outside the ports, and the executor's choice. -/
theorem setPort_dispatch (s : State) (p : PortId) (r : Port) :
    ExecutorTakes s (s.setPort p r).dispatch ∧ SameOutsidePorts s (s.setPort p r).dispatch ∧
    (s.setPort p r).dispatch.port p = r ∧ ∀ q, q ≠ p → (s.setPort p r).dispatch.port q = s.port q := by
  refine ⟨?_, ?_, ?_, ?_⟩
  · simp only [ExecutorTakes, State.dispatch, setPort_executor]
    split <;> simp_all [State.nextRequest]
  · simp only [SameOutsidePorts, State.dispatch]
    cases p <;> simp only [State.setPort] <;> split <;> rfl
  · rw [port_dispatch]
    simp
  · intro q hq
    rw [port_dispatch, port_setPort_other _ _ (Ne.symm hq)]

theorem findKey_some {b : Body} {e : EntryNo} {r : Live} {k : Key} (h : b.dir[e].live = some r) (hk : r.key = k)
    (hu : ∀ (d : EntryNo) (q : Live), b.dir[d].live = some q → q.key = r.key → d = e) : b.findKey k = some e := by
  unfold Body.findKey
  rw [findEntry_iff]
  refine ⟨⟨r, h, by simp [hk]⟩, fun d q hd hq => ?_⟩
  rw [beq_eq_false_iff_ne]
  intro hqk
  have := hu d q hq (hqk.trans hk.symm)
  subst this
  exact absurd hd (lt_irrefl _)

theorem findKey_none {b : Body} {k : Key} :
    b.findKey k = none ↔ ∀ (e : EntryNo) (r : Live), b.dir[e].live = some r → r.key ≠ k := by
  unfold Body.findKey
  rw [findEntry_none]
  simp

/-! ### Request frames -/

/-- No request has more than 16 operand bytes (R190). -/
theorem operandLength_le {code n : Nat} (h : operandLength code = some n) : n ≤ 16 := by
  by_cases hc : code < 26
  · interval_cases code <;> simp [operandLength] at h <;> omega
  · have h1 : operandLength code = none := List.getD_eq_default _ _ (by simpa using Nat.le_of_not_lt hc)
    rw [h1] at h
    cases h

/-- A request frame with operands of the length of its code is read as its code and operands spell (R152, R190). -/
theorem parse_requestFrame (tag code : Byte) (operands : List Byte) (h : operandLength code.toNat = some operands.length) :
    parseRequest (requestFrame tag code operands) = (requestOf code.toNat operands).map fun r => (tag, r) := by
  have hl := operandLength_le h
  have hn : (BitVec.ofNat 8 operands.length).toNat = operands.length := by
    rw [BitVec.toNat_ofNat]
    exact Nat.mod_eq_of_lt (by omega)
  have ht : (operands ++ crcBytes ([tag, code] ++ be1 operands.length ++ operands)).take operands.length = operands := List.take_left
  have hf : requestFrame tag code operands =
      tag :: code :: BitVec.ofNat 8 operands.length :: (operands ++ crcBytes ([tag, code] ++ be1 operands.length ++ operands)) := rfl
  rw [hf]
  unfold parseRequest
  dsimp only
  rw [hn, ht, List.drop_left, if_pos]
  refine ⟨?_, rfl, h⟩
  simp [crcBytes, be2]

end Sys2Proof.Laws
end

