-- ==== Sys2Proof/Laws/Runs.lean ====
section
/-! SUPPORT. What the arbiter, the walk of the plan and the runs of INSTALL frames do. -/

namespace Sys2Proof.Laws

open Sys2Proof.Machine

theorem isBuffer_eq (c : ChanId) : isBuffer c = decide (c.val < 8) := by
  unfold isBuffer
  simp

theorem weight_eq (c : ChanId) : weight c = if c.val < 8 then 3 else 1 := by
  unfold weight isBuffer
  simp

theorem modChan_modChan (b : Body) (c : ChanId) (f g : Channel → Channel) :
    (b.modChan c f).modChan c g = b.modChan c fun x => g (f x) := by
  simp [Body.modChan]

theorem offer_modChan (b : Body) (c : ChanId) (m : Msg) (n : Note) (f : Channel → Channel) :
    (b.offer c m n).modChan c f = (b.modChan c f).offer c m n := rfl

theorem installsOpen_iff (b : Body) (c : ChanId) : b.installsOpen c = true ↔
    ∃ (e : EntryNo) (r : Live), b.dir[e].live = some r ∧ r.key.chan = c ∧ (r.st = .pending ∨ r.st = .installing) := by
  unfold Body.installsOpen
  rw [anyEntry_iff]
  simp

/-- R103: a plan slot is held when some HELD channel runs a step of it. -/
theorem slotHeld_plan (b : Body) (n : SlotNo) : b.slotHeld (.plan n) = true ↔
    ∃ (d : ChanId) (sq : Spread), b.chan[d].admission = .held ⟨.plan n, sq⟩ := by
  unfold Body.slotHeld
  rw [List.any_eq_true]
  constructor
  · rintro ⟨d, -, hd⟩
    refine ⟨d, ?_⟩
    cases h : b.chan[d].admission with
    | none => rw [h] at hd; simp at hd
    | waiting a => rw [h] at hd; simp at hd
    | held a => rw [h] at hd; obtain ⟨k, sp⟩ := a; simp at hd; subst hd; exact ⟨sp, rfl⟩
  · rintro ⟨d, sq, h⟩
    exact ⟨d, List.mem_finRange d, by rw [h]; simp⟩

theorem elapsed_modChan {env : Env} {b : Body} {c : ChanId} {f : Channel → Channel} (h : ∀ x, (f x).runStart = x.runStart) :
    (b.modChan c f).elapsed env c = b.elapsed env c := by
  simp [Body.elapsed, h]

/-- R74: the walk passes over the slots that do not run, counting those it skips. -/
theorem walkPlan_passes (env : Env) (c : ChanId) : ∀ (before : List SlotNo) (b : Body),
    (let runs := fun (n : SlotNo) (x : PlanStep) =>
      env.plan[n] = some x ∧ x.mask.getLsbD c.val = true ∧ ¬(x.mandatory = false ∧ env.items.bootBudget ≤ b.elapsed env c)
    let skips := fun n : SlotNo =>
      (env.plan[n].any fun x => x.mask.getLsbD c.val && !x.mandatory) && decide (env.items.bootBudget ≤ b.elapsed env c)
    (∀ n ∈ before, ∀ x, ¬runs n x) → ∀ after, ∃ p,
      Body.walkPlan env c (before ++ after) b = Body.walkPlan env c after (b.modChan c fun ch =>
        { ch with
          planPos := if before = [] then ch.planPos else p
          skipped := ch.skipped + before.countP skips }))
  | [], b => by
    intro runs skips h after
    refine ⟨none, ?_⟩
    have : (b.modChan c fun ch => ch) = b := by simp [Body.modChan]
    simp only [if_true, List.countP_nil, Nat.add_zero]
    exact congrArg _ this.symm
  | n :: ns, b => by
    intro runs skips h after
    have hn := h n (by simp)
    have hns := fun m hm => h m (List.mem_cons_of_mem _ hm)
    have key : ∀ f : Channel → Channel, (∀ x, (f x).runStart = x.runStart) →
        (f = fun x => { x with planPos := some n, skipped := x.skipped + if skips n then 1 else 0 }) →
        ∃ p, Body.walkPlan env c (ns ++ after) (b.modChan c f) = Body.walkPlan env c after (b.modChan c fun ch =>
          { ch with planPos := p, skipped := ch.skipped + (n :: ns).countP skips }) := by
      intro f hf hfe
      obtain ⟨p, hp⟩ := walkPlan_passes env c ns (b.modChan c f) (by rw [elapsed_modChan hf]; exact hns) after
      rw [elapsed_modChan hf] at hp
      refine ⟨if ns = [] then some n else p, ?_⟩
      rw [hp, modChan_modChan]
      subst hfe
      congr 2
      funext x
      rw [List.countP_cons]
      congr 1
      simp [Nat.add_assoc, Nat.add_comm]
      rfl
    simp only [List.cons_append, Body.walkPlan, reduceCtorEq, if_false]
    cases hx : env.plan[n] with
    | none =>
      dsimp only
      exact key _ (fun _ => rfl) (by funext x; simp only [skips, hx, Option.any_none, Bool.false_and]; rfl)
    | some x =>
      dsimp only
      by_cases hm : x.mask.getLsbD c.val = false
      · rw [if_pos hm]
        exact key _ (fun _ => rfl) (by funext y; simp only [skips, hx, Option.any_some, hm, Bool.false_and]; rfl)
      · rw [if_neg hm]
        have hb : x.mandatory = false ∧ env.items.bootBudget ≤ b.elapsed env c := by
          by_contra hc
          exact hn x ⟨hx, by simpa using hm, hc⟩
        rw [if_pos hb, modChan_modChan]
        exact key _ (fun _ => rfl) (by
          have hm : x.mask.getLsbD c.val = true := by simpa using hm
          funext y
          simp only [skips, hx, Option.any_some, hm, hb.1, decide_eq_true hb.2]
          rfl)

/-! ### Runs of INSTALL frames -/

/-- An entry after its INSTALL of a run has been offered (R72, R122): PENDING becomes INSTALLING. -/
def sentEntry (x : Entry) : Entry :=
  match x.live with
  | some r => if r.st = .pending then ⟨x.gen + 1#8, some { r with st := .installing }⟩ else x
  | none => x

/-- The INSTALL frame that a run offers for an entry. -/
def runFrame (resync : Bool) (e : EntryNo) (x : Entry) : Option QFrame :=
  x.live.bind fun r => r.repl.map fun y => ⟨.install r.key.bank r.key.row y,
    .directory e (if r.st = .pending then x.gen + 1#8 else x.gen) resync⟩

/-- The blocks after a run has offered the frame of one entry, with `k` more frames awaited. -/
def runSend (c : ChanId) (resync : Bool) (k : Nat) (b : Body) (e : EntryNo) : Body :=
  { b with
    dir := b.dir.set e (sentEntry b.dir[e])
    link := b.link.set c { b.link[c] with sendq := b.link[c].sendq ++ (runFrame resync e b.dir[e]).toList }
    chan := b.chan.set c { b.chan[c] with awaited := b.chan[c].awaited.map (· + k) } }

theorem runSend_dir_other (c : ChanId) (resync : Bool) (k : Nat) (b : Body) {e d : EntryNo} (h : e ≠ d) :
    (runSend c resync k b e).dir[d] = b.dir[d] :=
  Vector.getElem_set_ne e.isLt d.isLt fun h' => h (Fin.ext h')

/-- What the frames of a list of entries leave. -/
theorem runSends_eq (c : ChanId) (resync : Bool) (k : Nat) : ∀ (fs : List EntryNo) (b : Body), fs.Nodup →
    let b' := fs.foldl (runSend c resync k) b
    b' = { b with
      dir := b'.dir
      link := b.link.set c { b.link[c] with
        sendq := b.link[c].sendq ++ fs.filterMap fun e => runFrame resync e b.dir[e] }
      chan := b.chan.set c { b.chan[c] with awaited := b.chan[c].awaited.map (· + k * fs.length) } } ∧
    ∀ e : EntryNo, b'.dir[e] = if e ∈ fs then sentEntry b.dir[e] else b.dir[e]
  | [], b, _ => by
    refine ⟨?_, fun e => by simp⟩
    have h1 : b.link.set c b.link[c] = b.link := by simp
    have h2 : b.chan.set c b.chan[c] = b.chan := by simp
    conv_lhs => rw [List.foldl_nil, show b = { b with link := b.link.set c b.link[c], chan := b.chan.set c b.chan[c] } by rw [h1, h2]]
    simp only [List.filterMap_nil, List.append_nil, List.length_nil, Nat.mul_zero, Nat.add_zero]
    rw [show (fun x : Nat => x) = id from rfl, Option.map_id, id]
    rfl
  | e :: es, b, hn => by
    have hn' := List.nodup_cons.1 hn
    obtain ⟨h1, h2⟩ := runSends_eq c resync k es (runSend c resync k b e) hn'.2
    have hd : ∀ d ∈ es, (runSend c resync k b e).dir[d] = b.dir[d] :=
      fun d hd => runSend_dir_other c resync k b fun h => hn'.1 (h ▸ hd)
    rw [List.foldl_cons]
    refine ⟨?_, fun d => ?_⟩
    · rw [h1]
      have hf : (es.filterMap fun d => runFrame resync d (runSend c resync k b e).dir[d]) =
          es.filterMap fun d => runFrame resync d b.dir[d] :=
        List.filterMap_congr fun d hm => by rw [hd d hm]
      simp only [hf]
      simp only [runSend, Vector.set_set, Fin.getElem_fin, Vector.getElem_set_self, Option.map_map]
      have hs : ∀ l : List QFrame, b.link[(c : Nat)].sendq ++ (runFrame resync e b.dir[(e : Nat)]).toList ++ l =
          b.link[(c : Nat)].sendq ++ ((runFrame resync e b.dir[(e : Nat)]).toList ++ l) := fun l => List.append_assoc ..
      have hm : ((fun x => x + k * es.length) ∘ fun x => x + k) = fun x => x + k * (e :: es).length := by
        funext n
        simp only [Function.comp, List.length_cons, Nat.mul_add, Nat.mul_one]
        omega
      have hc : (e :: es).filterMap (fun d => runFrame resync d b.dir[(d : Nat)]) =
          (runFrame resync e b.dir[(e : Nat)]).toList ++ es.filterMap fun d => runFrame resync d b.dir[(d : Nat)] := by
        rw [List.filterMap_cons]
        cases runFrame resync e b.dir[(e : Nat)] <;> rfl
      rw [hs, hm, hc]
    · rw [h2 d]
      by_cases h : d ∈ es
      · rw [if_pos h, if_pos (List.mem_cons_of_mem _ h), hd d h]
      · rw [if_neg h]
        by_cases hde : e = d
        · subst hde; simp [runSend]
        · rw [runSend_dir_other _ _ _ _ hde, if_neg]
          simp [h, Ne.symm hde]

/-- A run over a list of entries offers the frames of those that pass a test (R139): as many as there is room for, and its position is
then the next one. -/
theorem run_eq (c : ChanId) (resync : Bool) (k : Nat) (ok : Live → Bool) (stop : Option EntryNo → Channel → Channel)
    (R : List EntryNo → Body → Body) (hnil : ∀ b, R [] b = b.modChan c (stop none))
    (hskip : ∀ e es (b : Body), b.dir[e].live.any ok = false → R (e :: es) b = R es b)
    (hone : ∀ e es (b : Body) r x, e ∉ es → b.dir[e].live = some r → ok r = true → r.repl = some x → r.key.chan = c →
      (160 ≤ b.link[c].sendq.length → R (e :: es) b = b.modChan c (stop (some e))) ∧
      (b.link[c].state = .up → b.link[c].overflow = false → b.link[c].sendq.length < 160 →
        R (e :: es) b = R es (runSend c resync k b e))) :
    ∀ (es : List EntryNo) (b : Body), es.Nodup → b.link[c].state = .up → b.link[c].overflow = false →
      (∀ e ∈ es, ∀ r, b.dir[e].live = some r → r.key.chan = c) →
      let fs := es.filter fun e => b.dir[e].live.any ok
      (∀ e ∈ fs, ∀ r, b.dir[e].live = some r → r.repl ≠ none) →
      let room := 160 - b.link[c].sendq.length
      R es b = ((fs.take room).foldl (runSend c resync k) b).modChan c (stop (fs.drop room).head?)
  | [], b, _, _, _, _, _ => by
    simp only [List.filter_nil, List.take_nil, List.drop_nil, List.head?_nil, List.foldl_nil]
    exact hnil b
  | e :: es, b, hn, hu, ho, hc, hr => by
    have hn' := List.nodup_cons.1 hn
    cases hok : b.dir[e].live.any ok with
    | false =>
      have hf : (e :: es).filter (fun e => b.dir[e].live.any ok) = es.filter fun e => b.dir[e].live.any ok :=
        List.filter_cons_of_neg (by rw [hok]; exact Bool.false_ne_true)
      rw [hf] at hr
      rw [hskip e es b hok, hf]
      exact run_eq c resync k ok stop R hnil hskip hone es b hn'.2 hu ho (fun d hd => hc d (List.mem_cons_of_mem _ hd)) hr
    | true =>
      have hf : (e :: es).filter (fun e => b.dir[e].live.any ok) = e :: es.filter fun e => b.dir[e].live.any ok :=
        List.filter_cons_of_pos hok
      rw [hf] at hr
      obtain ⟨r, hl, hk⟩ := (Option.any_eq_true _ _).1 hok
      obtain ⟨x, hx⟩ := Option.ne_none_iff_exists'.1 (hr e List.mem_cons_self r hl)
      have h := hone e es b r x hn'.1 hl hk hx (hc e List.mem_cons_self r hl)
      rw [hf]
      by_cases hlen : 160 ≤ b.link[c].sendq.length
      · rw [h.1 hlen, Nat.sub_eq_zero_of_le hlen]
        rfl
      · have hlen := Nat.lt_of_not_le hlen
        have hd : ∀ d ∈ es, (runSend c resync k b e).dir[d] = b.dir[d] :=
          fun d hd => runSend_dir_other c resync k b fun h => hn'.1 (h ▸ hd)
        have hfs : (es.filter fun d => (runSend c resync k b e).dir[d].live.any ok) = es.filter fun d => b.dir[d].live.any ok :=
          List.filter_congr fun d hm => by rw [hd d hm]
        have hq : (runSend c resync k b e).link[c].sendq.length = b.link[c].sendq.length + 1 := by
          have hf : runFrame resync e b.dir[e] = some ⟨.install r.key.bank r.key.row x,
              .directory e (if r.st = .pending then b.dir[e].gen + 1#8 else b.dir[e].gen) resync⟩ := by
            simp only [runFrame, hl, hx, Option.bind_some, Option.map_some]
          simp only [runSend, hf]
          simp
        have ih := run_eq c resync k ok stop R hnil hskip hone es (runSend c resync k b e) hn'.2 (by simpa [runSend] using hu)
          (by simpa [runSend] using ho) (fun d hm => by rw [hd d hm]; exact hc d (List.mem_cons_of_mem _ hm))
          (fun d hm => by
            rw [hfs] at hm
            rw [hd d (List.mem_of_mem_filter hm)]
            exact hr d (List.mem_cons_of_mem _ hm))
        rw [h.2 hu ho hlen, ih, hfs, hq, show 160 - b.link[c].sendq.length = (160 - (b.link[c].sendq.length + 1)) + 1 by omega]
        rfl

/-- With room in the send queue, sending INSTALL for a PENDING entry is what a run sends for it. -/
theorem sendInstall_runSend {b : Body} {e : EntryNo} {r : Live} {x : Replacement} (c : ChanId) (resync : Bool)
    (hl : b.dir[e].live = some r) (hx : r.repl = some x) (hc : r.key.chan = c) (hp : r.st = .pending)
    (hs : b.link[c].state = .up) (ho : b.link[c].overflow = false) (hq : b.link[c].sendq.length < 160) :
    b.sendInstall e resync = runSend c resync 0 b e := by
  have h2 : b.chan.set c b.chan[c] = b.chan := by simp
  subst hc
  unfold Body.sendInstall
  rw [hl]
  dsimp only
  rw [hx]
  dsimp only
  rw [setEntryState_eq hl]
  refine (offer_queues (b := { b with dir := b.dir.set e ⟨b.dir[e].gen + 1#8, some { r with st := .installing }⟩ }) _ _ hs ho
    (Nat.lt_trans hq (by omega))).trans ?_
  simp only [runSend, sentEntry, runFrame, hl, hp, if_true, hx, Option.bind_some, Option.map_some, Option.toList_some, Nat.add_zero]
  rw [show (fun x : Nat => x) = id from rfl, Option.map_id, id, show
    ({ b.chan[r.key.chan] with awaited := b.chan[r.key.chan].awaited } : Channel) = b.chan[r.key.chan] from rfl, h2]
  simp

/-- With room in the send queue, sending INSTALL again for an entry in force is what the walk sends for it. -/
theorem resendInstall_runSend {b : Body} {e : EntryNo} {r : Live} {x : Replacement} (c : ChanId)
    (hl : b.dir[e].live = some r) (hx : r.repl = some x) (hc : r.key.chan = c) (hp : r.st ≠ .pending)
    (hs : b.link[c].state = .up) (ho : b.link[c].overflow = false) (hq : b.link[c].sendq.length < 160) :
    b.resendInstall e = runSend c true 0 b e := by
  have h2 : b.chan.set c b.chan[c] = b.chan := by simp
  have h3 : b.dir.set e b.dir[e] = b.dir := by simp
  subst hc
  simp only [Body.resendInstall, hl, hx]
  rw [offer_queues _ _ hs ho (by omega)]
  simp only [runSend, sentEntry, runFrame, hl, hp, if_false, hx, Option.bind_some, Option.map_some, Option.toList_some, Nat.add_zero]
  rw [show (fun x : Nat => x) = id from rfl, Option.map_id, id, show
    ({ b.chan[r.key.chan] with awaited := b.chan[r.key.chan].awaited } : Channel) = b.chan[r.key.chan] from rfl, h2, h3]

theorem runSend_await (c : ChanId) (resync : Bool) (b : Body) (e : EntryNo) :
    (runSend c resync 0 b e).await c = runSend c resync 1 b e := by
  simp [Body.await, Body.modChan, runSend]

theorem filter_runSend (c : ChanId) (resync : Bool) (k : Nat) (b : Body) {e : EntryNo} {es : List EntryNo} (h : e ∉ es)
    (p : Live → Bool) : (es.filter fun d => (runSend c resync k b e).dir[d].live.any p) = es.filter fun d => b.dir[d].live.any p :=
  List.filter_congr fun d hm => by
    rw [runSend_dir_other c resync k b (ne_of_mem_of_not_mem hm h).symm]

/-- The run of an install phase (R72, R139). -/
theorem runInstalls_eq (c : ChanId) (es : List EntryNo) (b : Body) (hn : es.Nodup) (hs : b.link[c].state = .up)
    (ho : b.link[c].overflow = false) (hc : ∀ e ∈ es, ∀ r, b.dir[e].live = some r → r.key.chan = c) :
    let fs := es.filter fun e => b.dir[e].live.any (·.st == .pending)
    (∀ e ∈ fs, ∀ r, b.dir[e].live = some r → r.repl ≠ none) →
    let room := 160 - b.link[c].sendq.length
    Body.runInstalls c fs b = ((fs.take room).foldl (runSend c false 0) b).modChan c fun ch =>
      { ch with installPos := (fs.drop room).head?.map (·.val) } := by
  refine run_eq c false 0 (·.st == .pending) (fun o ch => { ch with installPos := o.map (·.val) })
    (fun es b => Body.runInstalls c (es.filter fun e => b.dir[e].live.any (·.st == .pending)) b) (fun _ => rfl) ?_ ?_ es b hn hs ho hc
  · intro e es b h
    rw [List.filter_cons_of_neg (by rw [h]; exact Bool.false_ne_true)]
  · intro e es b r x he hl hp hx hc
    have hp' : r.st = .pending := by simpa using hp
    rw [List.filter_cons_of_pos (by rw [hl]; exact hp)]
    refine ⟨fun h => ?_, fun hs ho hq => ?_⟩
    · exact (if_pos h : (if Config.runMax ≤ b.link[c].sendq.length then _ else _) = _)
    · rw [Body.runInstalls, if_neg (show ¬Config.runMax ≤ b.link[c].sendq.length from Nat.not_le.2 hq),
        sendInstall_runSend c false hl hx hc hp' hs ho hq, filter_runSend c _ _ _ he]

/-- The walk of RESYNC (R122, R139). -/
theorem walkEntries_eq (c : ChanId) (es : List EntryNo) (b : Body) (hn : es.Nodup) (hs : b.link[c].state = .up)
    (ho : b.link[c].overflow = false) (hc : ∀ e ∈ es, ∀ r, b.dir[e].live = some r → r.key.chan = c) :
    let fs := es.filter fun e => b.dir[e].live.any fun r => r.st == .pending || r.st == .active || r.st == .refill
    (∀ e ∈ fs, ∀ r, b.dir[e].live = some r → r.repl ≠ none) →
    let room := 160 - b.link[c].sendq.length
    Body.walkEntries c es b = ((fs.take room).foldl (runSend c true 1) b).modChan c fun ch =>
      { ch with walkPos := some (((fs.drop room).head?.map (·.val)).getD 1024) } := by
  refine run_eq c true 1 (fun r => r.st == .pending || r.st == .active || r.st == .refill)
    (fun o ch => { ch with walkPos := some ((o.map (·.val)).getD 1024) }) (Body.walkEntries c) (fun _ => rfl) ?_ ?_ es b hn hs ho hc
  · intro e es b h
    rw [Body.walkEntries]
    have : b.walkFrame e = none := by
      unfold Body.walkFrame
      cases hl : b.dir[e].live with
      | none => rfl
      | some r =>
        rw [hl] at h
        cases hst : r.st <;> simp_all
    rw [this]
  · intro e es b r x he hl hp hx hc
    have hw : ∃ b1, b.walkFrame e = some b1 ∧ (b.link[c].state = .up → b.link[c].overflow = false →
        b.link[c].sendq.length < 160 → b1 = runSend c true 0 b e) := by
      unfold Body.walkFrame
      rw [hl]
      dsimp only
      have hst : r.st = .pending ∨ r.st = .active ∨ r.st = .refill := by simpa [or_assoc] using hp
      rcases hst with hst | hst | hst <;> rw [hst] <;> refine ⟨_, rfl, fun hs ho hq => ?_⟩
      · exact sendInstall_runSend c true hl hx hc hst hs ho hq
      · exact resendInstall_runSend c hl hx hc (by rw [hst]; exact nofun) hs ho hq
      · exact resendInstall_runSend c hl hx hc (by rw [hst]; exact nofun) hs ho hq
    obtain ⟨b1, hw, hb⟩ := hw
    rw [Body.walkEntries, hw]
    refine ⟨fun h => ?_, fun hs ho hq => ?_⟩
    · exact if_pos h
    · dsimp only
      rw [if_neg (show ¬Config.runMax ≤ b.link[c].sendq.length from Nat.not_le.2 hq), hb hs ho hq, runSend_await]

end Sys2Proof.Laws
end

