-- ==== Sys2Proof/Tests/Slice0.lean ====
section
/-! SUPPORT. Tests on small states: ill-formed commands, numbers that the manual prints, and for each statement with hypotheses a
state and operands that meet them, at the ends of the ranges. -/

namespace Sys2Proof.Tests

open Sys2Proof Sys2Proof.Machine Sys2Proof.Laws

set_option maxRecDepth 100000

/-! ### Helpers -/

/-- A request frame with tag 7 in a port's request slot, the executor at work on it. -/
def asking (p : PortId) (code : Byte) (ops : List Byte) (s : State := State.reset) : State :=
  { s.setPort p { s.port p with req := some (requestFrame 7#8 code ops) } with executor := some p }

/-- The state with one channel's record changed. -/
def chanAs (c : ChanId) (f : Channel → Channel) (s : State := State.reset) : State := { s with body := s.body.modChan c f }

/-- The state with one link's record changed. -/
def linkAs (c : ChanId) (f : Link → Link) (s : State := State.reset) : State := { s with body := s.body.modLink c f }

/-- The state with one link UP. -/
def up (c : ChanId) (s : State := State.reset) : State :=
  linkAs c (fun k => { k with state := .up, training := none, lane := none }) s

/-- The state with one entry. -/
def entryAs (e : EntryNo) (r : Live) (s : State := State.reset) : State :=
  { s with body := { s.body with dir := s.body.dir.set e ⟨9#8, some r⟩ } }

/-- The state with one inventory. -/
def invAs (c : ChanId) (v : Inventory) (s : State := State.reset) : State :=
  { s with body := { s.body with inv := s.body.inv.set c (some v) } }

/-- The state with one watch record. -/
def watchAs (i : WatchNo) (w : Watch) (s : State := State.reset) : State :=
  { s with body := { s.body with watch := s.body.watch.set i (some w) } }

/-- The state with one fence unit. -/
def fenceAs (c : Fin 8) (u : FenceUnit) (s : State := State.reset) : State :=
  { s with body := { s.body with fence := s.body.fence.set c u } }

/-- The state with one frame in a link's receive slots. -/
def holding (l : ChanId) (type : Byte) (payload : List Byte) (s : State := State.reset) : State :=
  linkAs l (fun k => { k with rx := [⟨type, 3#4, payload⟩] }) s

/-- A small geometry: 4 banks in groups of 2, one spare for each group, a pool of 2 rows in bank 3. -/
def geo : Geometry := ⟨4, 1024, 2, 1, 3, 2, List.replicate 12 1#8⟩

/-- Its fresh inventory. -/
def inv : Inventory := .build geo

/-- A row entry of channel 0 in the given state, with a pool slot. -/
def rowEntry (st : EntryState) : Live := ⟨st, ⟨0, 1, some 5⟩, some (.target (.pool 0)), none, .manual, inv.tag, 0⟩

/-- The outcome is a next state that satisfies the test. -/
def gives (r : Result) (p : State → Bool) : Bool :=
  match r with
  | .next t => p t
  | .fault _ | .refused _ => false

/-! ### Ill-formed commands -/

theorem test_frameArrival_illFormed : (Instr.frameArrival 0 [1#8, 0#8, 2#8, 0#8]).wellFormed = false := by decide

theorem test_i2cRead_illFormed : (Instr.i2cRead .a none 0 true).wellFormed = false := by decide

theorem test_fenceTimer_illFormed : (Instr.fenceTimerExpiry 8).wellFormed = false := by decide

/-! ### Numbers that the manual prints -/

theorem test_crc_digits : crc16 [0x31#8, 0x32#8, 0x33#8, 0x34#8, 0x35#8, 0x36#8, 0x37#8, 0x38#8, 0x39#8] = 0x29B1#16 := by decide

theorem test_crc_zero : crc16 [0x00#8] = 0xE1F0#16 := by decide

theorem test_decay_saturated : ((⟨0, 1, 2, 1023, 9, true⟩ : Watch).decay) = some ⟨0, 1, 2, 895, 9, true⟩ := by decide

theorem test_decay_frees : ((⟨0, 1, 2, 1, 9, true⟩ : Watch).decay) = none := by decide

theorem test_score_saturates : ((⟨0, 1, 2, 900, 255, false⟩ : Watch).add .ue) = ⟨0, 1, 2, 1023, 255, true⟩ := by decide

theorem test_clampPause : [0, 1, 8, 9, 16, 17, 255].map clampPause = [0, 9, 9, 9, 16, 16, 16] := by decide

/-! ### Steps, reset and the clock -/

theorem witness_EmptyQueue : State.reset.pending = [] ∧ State.reset.running = true ∧ State.held.pending = [] ∧
    State.held.running = false := by decide

theorem witness_ResetPin : State.held.inReset = true ∧ State.reset.inReset = false := by decide

theorem witness_RefClock : State.reset.refclk = true ∧ { State.reset with refclk := false }.refclk = false := by decide

theorem test_tick_queues_training : ((State.reset.idle).pending.all fun c => match c with
    | .trainingTimerExpiry _ => true
    | _ => false) = true ∧ State.reset.idle.dueList.length = 12 := by
  refine ⟨?_, by decide +kernel⟩
  have h : ∀ c ∈ State.reset.idle.dueList, (match c with | .trainingTimerExpiry _ => true | _ => false) = true := by
    decide +kernel
  have hp : ∀ (l : List Instr) (n : Nat), ∀ c ∈ freeOrdered n l, c ∈ l := by
    intro l
    induction l with
    | nil => intro n c hc; cases hc
    | cons d ds ih =>
      intro n c hc
      rw [freeOrdered] at hc
      unfold insertFree at hc
      split at hc
      · simpa using Or.inl (List.mem_singleton.1 hc)
      · rename_i x xs hx
        rcases List.eq_or_mem_of_mem_insertIdx hc with h1 | h1
        · simp [h1]
        · rw [← hx] at h1
          exact List.mem_cons_of_mem _ (ih _ _ h1)
  rw [List.all_eq_true]
  intro c hc
  exact h c (hp _ _ c hc)

/-- A budget that ran out while REFCLK was absent is queued when the clock is back (R193). -/
theorem test_budget_held_up :
    let s := { chanAs 0 (fun ch => { ch with state := .test, runStart := some 0#32 }) with now := 30005#32 }
    s.tick.dueList.contains (.budgetExpiry 0) = true ∧ s.items.bootBudget < s.body.elapsed s.env 0 ∧
    s.body.att[(5 : Fin 10)].pending = false := by decide +kernel

/-! ### Ports -/

/-- Port A with a request, with a reply at its last byte, and with a read or a write under way. -/
def portA (f : Port → Port) : State := { State.reset with portA := f State.reset.portA }

theorem witness_WriteTransaction :
    (State.reset.port .a).addr = 0x48#7 ∧ (State.reset.port .b).addr = 0x4C#7 ∧
    ((State.reset.port .a).endWrite.endRead 100).req = none ∧
    (((portA fun r => { r with req := some [1#8] }).port .a).endWrite.endRead 100).req.isSome = true ∧
    ((portA fun r => { r with writing := some [] }).port .a).writing = some [] ∧
    ((portA fun r => { r with writing := some (List.replicate 40 1#8) }).port .a).writing =
      some (List.replicate 40 1#8) ∧ (State.reset.port .a).writing = none ∧ State.held.running = false := by decide

theorem test_write_41_bytes : gives (exec (.requestWriteStart .a 0x48#7 (List.replicate 41 1#8)) State.reset) (fun t =>
    t.portA.bus.dataAcks == List.replicate 40 true ++ [false] && t.portA.writing == some (List.replicate 40 1#8)) = true := by
  decide +kernel

theorem witness_ReadTransaction :
    ((State.reset.port .a).endWrite.endRead 100).reply = none ∧
    (((portA fun r => { r with reply := some [1#8, 2#8], readPos := 1 }).port .a).endWrite.endRead 100).reply = some [1#8, 2#8] ∧
    ((portA fun r => { r with reading := some .ones }).port .a).reading = some .ones ∧
    ((portA fun r => { r with reading := some (.notReady [1#8] 1) }).port .a).reading = some (.notReady [1#8] 1) ∧
    ((portA fun r => { r with reading := some .reply, reply := some [1#8] }).port .a).reply = some [1#8] := by decide

theorem witness_ReplyHold : ((portA fun r => { r with hold := some 0 }).port .a).hold = some 0 ∧
    (State.reset.port .a).hold ≠ some 0 := by decide

theorem witness_ReplyPlaced : PortId.b ≠ PortId.a ∧ PortId.a ≠ PortId.b := by decide

theorem witness_RequestsRefused :
    parseRequest [1#8, 2#8, 0#8, 0#8] = none ∧
    ({ portA fun r => { r with req := some [1#8] } with executor := some .a }).executor = some .a ∧
    (asking .b 0x18#8 [1#8, 1#8]).executing .b = some (7#8, .grant 1 1) ∧
    (asking .b 0x18#8 [1#8, 1#8]).allows .b (.grant 1 1) = false := by decide +kernel

/-- A port with another request, a part at rest, and a request where UNPARSED_REQUEST comes. -/
theorem witness_RequestsIdle :
    (∀ tag x, (asking .b 0x18#8 [1#8, 1#8]).executing .b = some (tag, x) → x.command .b ≠ (Request.getStatus).command .b) ∧
    State.reset.executing .a = none ∧ (asking .a 0x01#8 []).executing .a = some (7#8, .getStatus) ∧
    State.reset.executor = none := by
  refine ⟨fun tag x h => ?_, by decide +kernel, by decide +kernel, rfl⟩
  rw [show (asking .b 0x18#8 [1#8, 1#8]).executing .b = some (7#8, .grant 1 1) by decide +kernel] at h
  cases h
  decide

theorem witness_FramesReadBack : (Msg.install 255 (some 16777215) (.target (.pool 255))).InRange ∧
    (Msg.rowStatus 0 0 (.watched 65535)).InRange ∧ operandLength 0x01 = some 0 ∧ operandLength 0x14 = some 16 := by
  refine ⟨⟨?_, ?_, ?_⟩, ⟨?_, ?_, ?_⟩, rfl, rfl⟩
  · exact show 255 < 256 by decide
  · intro n h
    cases h
    exact show 16777215 < 16777216 by decide
  · intro t h
    cases h
    exact show 255 < 256 by decide
  · exact show 0 < 256 by decide
  · exact show 0 < 16777216 by decide
  · exact show 65535 < 65536 by decide

/-- The operands of each shape at the ends of their fields. -/
theorem witness_RequestFields :
    parseRequest (requestFrame 7#8 0x13#8 (be1 255)) = some (7#8, .release 255) ∧
    parseRequest (requestFrame 7#8 0x16#8 (be2 65535)) = some (7#8, .clearAttention 65535) ∧
    parseRequest (requestFrame 7#8 0x07#8 (be2 65535 ++ be1 255 ++ be1 0)) = some (7#8, .nextEntry 65535 ⟨255, 0⟩) ∧
    parseRequest (requestFrame 7#8 0x15#8 (be1 255 ++ be4 4294967295)) = some (7#8, .setConfig 255 4294967295) ∧
    parseRequest (requestFrame 7#8 0x0D#8 (be1 255 ++ be1 254 ++ be1 253 ++ be3 16777215 ++ be2 65534 ++ be1 252 ++ be1 251 ++
      be1 250)) = some (7#8, .seed ⟨255, 254, 253, 16777215⟩ 65534 252 251 250) ∧
    parseRequest (requestFrame 7#8 0x14#8 ([15#8, 0#8, 1#8, 3#8, 1#8, 1#8, 6#8] ++ [1#8, 2#8, 3#8, 4#8, 5#8, 255#8] ++
      be1 255 ++ be2 65535)) = some (7#8, .writePlan 15 0 ⟨1, 3, 1, 1, 6, [1, 2, 3, 4, 5, 255], 255, 65535⟩) ∧
    FitsBytes 3 16777215 ∧ FitsBytes 4 4294967295 := by unfold FitsBytes; decide +kernel

/-! ### Requests of class INSPECT -/

theorem witness_GetStatus : (asking .b 0x01#8 []).Asked .b 7#8 .getStatus := by unfold State.Asked; decide +kernel

theorem witness_GetChannel : (asking .a 0x02#8 [12#8]).Asked .a 7#8 (.getChannel 12) ∧
    (asking .a 0x02#8 [11#8]).Asked .a 7#8 (.getChannel 11) := by unfold State.Asked; decide +kernel

theorem witness_GetLink : (asking .a 0x03#8 [12#8]).Asked .a 7#8 (.getLink 12) ∧
    (asking .a 0x03#8 [0#8]).Asked .a 7#8 (.getLink 0) := by unfold State.Asked; decide +kernel

/-- Log 31: byte 7 of GET_LINK's payload is 1 for a GAP flag that is set and 0 for one that is clear. -/
theorem test_getLink_gap : gives (exec (.getLink .a) (asking .a 0x03#8 [0#8] (linkAs 0 fun k => { k with gap := true })))
      (fun t => ((t.portA.reply.getD []).drop 4)[6]? == some 1#8 && t.body.link[(0 : ChanId)].gap == false) = true ∧
    gives (exec (.getLink .a) (asking .a 0x03#8 [0#8]))
      (fun t => ((t.portA.reply.getD []).drop 4)[6]? == some 0#8) = true := by decide +kernel

theorem witness_GetInventory : (asking .a 0x04#8 [0#8, 1#8, 32#8]).Asked .a 7#8 (.getInventory 0 ⟨1, 32⟩) ∧
    (asking .a 0x04#8 [0#8, 2#8, 1#8] (invAs 0 inv)).Asked .a 7#8 (.getInventory 0 ⟨2, 1⟩) ∧
    (asking .a 0x04#8 [0#8, 1#8, 3#8] (invAs 0 inv)).Asked .a 7#8 (.getInventory 0 ⟨1, 3⟩) ∧
    (invAs 0 inv).body.inv[(0 : ChanId)] = some inv ∧ inv.slots[1]? = some .free ∧ inv.geo.banks = 4 ∧
    inv.slots.length = 2 ∧ State.reset.body.inv[(0 : ChanId)] = none := by unfold State.Asked; decide +kernel

theorem witness_ReadEntry : (asking .a 0x05#8 [4#8, 0#8]).Asked .a 7#8 (.readEntry 1024) ∧
    (asking .a 0x05#8 [3#8, 255#8]).Asked .a 7#8 (.readEntry 1023) ∧ State.reset.body.dir[(1023 : EntryNo)].live = none ∧
    (entryAs 1023 (rowEntry .active)).body.dir[(1023 : EntryNo)].live = some (rowEntry .active) ∧
    (asking .a 0x07#8 [3#8, 255#8, 1#8, 11#8]).Asked .a 7#8 (.nextEntry 1023 ⟨1, 11⟩) ∧
    (asking .a 0x07#8 [3#8, 255#8, 1#8, 12#8]).Asked .a 7#8 (.nextEntry 1023 ⟨1, 12⟩) := by
  unfold State.Asked; decide +kernel

/-- The key of the small entry is valid, with an inventory and without. -/
theorem valid_small_key : KeyValid (invAs 0 inv).body ⟨0, 1, 0, 5⟩ ⟨0, 1, some 5⟩ ∧
    KeyValid State.reset.body ⟨0, 31, 0, 131071⟩ ⟨0, 31, some 131071⟩ ∧
    KeyValid State.reset.body ⟨7, 0, 1, 0⟩ ⟨7, 0, none⟩ ∧ ∀ k, ¬KeyValid State.reset.body ⟨8, 0, 1, 0⟩ k := by
  refine ⟨(validKey_iff _ _ _).1 ?_, (validKey_iff _ _ _).1 ?_, (validKey_iff _ _ _).1 ?_, (validKey_none _ _).1 ?_⟩ <;>
    decide +kernel

theorem witness_Find : (asking .a 0x06#8 [0#8, 1#8, 0#8, 0#8, 0#8, 5#8]).Asked .a 7#8 (.find ⟨0, 1, 0, 5⟩) ∧
    (asking .a 0x06#8 [8#8, 0#8, 1#8, 0#8, 0#8, 0#8]).Asked .a 7#8 (.find ⟨8, 0, 1, 0⟩) ∧
    (entryAs 3 (rowEntry .active)).body.findKey ⟨0, 1, some 5⟩ = some 3 ∧
    State.reset.body.findKey ⟨0, 1, some 5⟩ = none := by unfold State.Asked; decide +kernel

theorem witness_ReadWatch : (asking .a 0x08#8 [255#8, 1#8, 12#8]).Asked .a 7#8 (.readWatch 255 ⟨1, 12⟩) ∧
    (asking .a 0x08#8 [255#8, 1#8, 11#8]).Asked .a 7#8 (.readWatch 255 ⟨1, 11⟩) ∧
    (watchAs 255 ⟨11, 31, 7, 512, 0, true⟩).body.watch[(255 : WatchNo)] = some ⟨11, 31, 7, 512, 0, true⟩ ∧
    (asking .a 0x09#8 [11#8, 31#8, 1#8, 255#8, 255#8]).Asked .a 7#8 (.findWatch 11 31 131071) ∧
    (asking .a 0x09#8 [11#8, 32#8, 0#8, 0#8, 0#8]).Asked .a 7#8 (.findWatch 11 32 0) := by unfold State.Asked; decide +kernel

theorem witness_ReadCause : (asking .a 0x0A#8 []).Asked .a 7#8 .readCause ∧
    ({ State.reset.body with att := State.reset.body.att.set 5 ⟨true, true, .lo, none, false⟩ }).causeNo = some 5 := by
  unfold State.Asked; decide +kernel

theorem witness_ReadPlan : (asking .a 0x0B#8 [16#8]).Asked .a 7#8 (.readPlan 16) ∧
    (asking .a 0x0B#8 [15#8]).Asked .a 7#8 (.readPlan 15) ∧ State.reset.plan[(15 : SlotNo)] = none ∧
    State.reset.plan[(5 : SlotNo)].isSome = true := by unfold State.Asked; decide +kernel

theorem witness_ReadConfig : (asking .a 0x0C#8 [0#8, 0#8]).Asked .a 7#8 (.readConfig ⟨0, 0⟩) ∧
    (asking .a 0x0C#8 [1#8, 13#8]).Asked .a 7#8 (.readConfig ⟨1, 13⟩) ∧
    (asking .a 0x0C#8 [1#8, 14#8]).Asked .a 7#8 (.readConfig ⟨1, 14⟩) := by unfold State.Asked; decide +kernel

/-- R190: AUTO_RELEASE and its range and default take one byte each, and POOL_LOW_MARK's four. -/
theorem test_readConfig : gives (exec (.readConfig .a) (asking .a 0x0C#8 [1#8, 12#8])) (fun t =>
      t.portA.reply == some (replyFrame 7#8 0x0C#8 .ok [1#8, 0#8, 1#8, 1#8])) = true ∧
    gives (exec (.readConfig .a) (asking .a 0x0C#8 [1#8, 11#8])) (fun t =>
      t.portA.reply == some (replyFrame 7#8 0x0C#8 .ok (be4 8 ++ be4 0 ++ be4 128 ++ be4 8))) = true := by decide +kernel

/-! ### Requests of class EDIT -/

/-- The state in which channel 0 is READY with its inventory. -/
def readyState : State := invAs 0 inv (chanAs 0 (fun ch => { ch with state := .ready }) (up 0))

/-- The state in which channel 0 is in SERVICE with its inventory. -/
def serviceState : State := invAs 0 inv (chanAs 0 (fun ch => { ch with state := .service }) (up 0))

theorem readyState_inv (v : Inventory) (h : readyState.body.inv[(0 : ChanId)] = some v) : v = inv :=
  (Option.some.inj (h.symm.trans (show readyState.body.inv[(0 : ChanId)] = some inv by decide +kernel)))

/-- A SEED with each form of requested target, with an inventory and without; its boundary values; a whole bank. -/
theorem witness_Seed :
    (asking .a 0x0D#8 [0#8, 1#8, 0#8, 0#8, 0#8, 5#8, 0#8, 0#8, 2#8, 1#8, 0#8] readyState).Asked .a 7#8
      (.seed ⟨0, 1, 0, 5⟩ 0 2 1 0) ∧
    KeyValid readyState.body ⟨0, 1, 0, 5⟩ ⟨0, 1, some 5⟩ ∧
    SeedValid readyState.body ⟨0, 1, some 5⟩ 0 2 1 0 (some (.pool 1)) ∧
    SeedValid readyState.body ⟨0, 1, none⟩ 0 0 0 0 none ∧
    SeedValid State.reset.body ⟨0, 31, some 131071⟩ 65535 1 31 3 (some (.device 31 3)) ∧
    SeedValid State.reset.body ⟨0, 31, some 131071⟩ 0 2 127 0 (some (.pool 127)) ∧
    (∀ k t, KeyValid State.reset.body ⟨0, 31, 0, 131071⟩ k → ¬SeedValid State.reset.body k 0 2 128 0 t) ∧
    readyState.body.chan[(0 : ChanId)].state = .ready ∧ LowestFree readyState.body 0 ∧
    LowestFree (entryAs 0 (rowEntry .active)).body 1 ∧ ¬BankExcluded readyState.body 0 1 ∧
    BankExcluded (entryAs 0 ⟨.active, ⟨0, 1, none⟩, some .exclude, none, .test, 0#16, 0⟩).body 0 1 ∧
    inv.isFree (.pool 1) = true ∧ (inv.take (.target (.pool 1))).isFree (.pool 1) = false := by
  refine ⟨by unfold State.Asked; decide +kernel, (validKey_iff _ _ _).1 (by decide +kernel), ?_, ?_, ?_, ?_, ?_,
    by decide +kernel, (lowestFree_iff _ _).1 (by decide +kernel), (lowestFree_iff _ _).1 (by decide +kernel),
    mt (excluded_iff _ _ _).2 (by decide +kernel), (excluded_iff _ _ _).1 (by decide +kernel), by decide, by decide⟩
  · refine ⟨.inr (.inr ⟨rfl, by decide, rfl⟩), by simp, fun v h => ?_⟩
    obtain rfl := readyState_inv v h
    exact ⟨.inl rfl, by decide⟩
  · refine ⟨.inl ⟨rfl, rfl⟩, by simp, fun v h => ?_⟩
    obtain rfl := readyState_inv v h
    exact ⟨.inl rfl, trivial⟩
  · exact ⟨.inr (.inl ⟨rfl, by decide, by decide, rfl⟩), by simp, fun v h => by
      rw [show State.reset.body.inv[(0 : ChanId)] = none by decide +kernel] at h; cases h⟩
  · exact ⟨.inr (.inr ⟨rfl, by decide, rfl⟩), by simp, fun v h => by
      rw [show State.reset.body.inv[(0 : ChanId)] = none by decide +kernel] at h; cases h⟩
  · rintro k t - ⟨h, -⟩
    rcases h with h | h | h
    · exact absurd h.1 (by decide)
    · exact absurd h.1 (by decide)
    · exact absurd h.2.1 (by decide)

/-- R7's example: the SEED of a pool slot on a channel with no inventory is UNRESOLVED. -/
theorem test_seed_unresolved : gives (exec (.seed .a)
    (asking .a 0x0D#8 [2#8, 6#8, 0#8, 0#8, 1#8, 44#8, 0#8, 0#8, 2#8, 9#8, 0#8])) (fun t =>
      t.body.dir[(0 : EntryNo)] == ⟨1#8, some ⟨.unresolved, ⟨2, 6, some 300⟩, none, some (.pool 9), .seed, 0#16, 0⟩⟩) = true := by
  decide +kernel

/-- Log 30: a second SEED of a whole-bank key is refused EXCLUDED, and a second SEED of a row key EXISTS. -/
theorem test_seed_twice :
    let bank : Live := ⟨.unresolved, ⟨2, 6, none⟩, none, none, .seed, 0#16, 0⟩
    let row : Live := ⟨.unresolved, ⟨2, 6, some 300⟩, none, none, .seed, 0#16, 0⟩
    gives (exec (.seed .a) (asking .a 0x0D#8 [2#8, 6#8, 1#8, 0#8, 0#8, 0#8, 0#8, 0#8, 0#8, 0#8, 0#8] (entryAs 0 bank))) (fun t =>
      t.portA.reply == some (replyFrame 7#8 0x0D#8 .excluded [])) = true ∧
    gives (exec (.seed .a) (asking .a 0x0D#8 [2#8, 6#8, 0#8, 0#8, 1#8, 44#8, 0#8, 0#8, 0#8, 0#8, 0#8] (entryAs 0 row))) (fun t =>
      t.portA.reply == some (replyFrame 7#8 0x0D#8 .exists [])) = true := by decide +kernel

/-- The four ways on of ADD_REPAIR, and its refusals. -/
theorem witness_AddRepair :
    (asking .a 0x0E#8 [0#8, 1#8, 0#8, 0#8, 5#8] serviceState).Asked .a 7#8 (.addRepair 0 1 5) ∧
    KeyValid serviceState.body ⟨0, 1, 0, 5⟩ ⟨0, 1, some 5⟩ ∧ (∀ k, ¬KeyValid serviceState.body ⟨0, 4, 0, 5⟩ k) ∧
    serviceState.body.chan[(0 : ChanId)].state = .service ∧ LowestFree serviceState.body 0 ∧
    ¬BankExcluded serviceState.body 0 1 ∧ serviceState.body.findKey ⟨0, 1, some 5⟩ = none ∧
    serviceState.body.fence[(0 : Fin 8)].queue.length < 32 ∧
    serviceState.body.choose serviceState.env 0 1 = some (.target (.pool 0)) ∧
    (chanAs 0 (fun ch => { ch with state := .idle }) readyState).body.chan[(0 : ChanId)].state = .idle ∧
    (fenceAs 0 ⟨List.replicate 32 0, none⟩ serviceState).body.fence[(0 : Fin 8)].queue.length = 32 := by
  refine ⟨by unfold State.Asked; decide +kernel, (validKey_iff _ _ _).1 (by decide +kernel),
    (validKey_none _ _).1 (by decide +kernel), by decide +kernel, (lowestFree_iff _ _).1 (by decide +kernel),
    mt (excluded_iff _ _ _).2 (by decide +kernel), ?_⟩
  decide +kernel

/-- On a BUFFER channel in SERVICE the new entry is fenced at once. -/
theorem test_addRepair_service : gives (exec (.addRepair .a) (asking .a 0x0E#8 [0#8, 1#8, 0#8, 0#8, 5#8] serviceState)) (fun t =>
    t.body.dir[(0 : EntryNo)] ==
      ⟨2#8, some ⟨.fencing, ⟨0, 1, some 5⟩, some (.target (.pool 0)), none, .manual, inv.tag, 0⟩⟩ &&
    t.body.link[(0 : ChanId)].sendq == [⟨.fence 0#8 1 (some 5), .none⟩]) = true := by decide +kernel

/-- RETIRE of entry 4 with its generation, in each state that is handled, and refused. -/
theorem witness_Retire :
    (asking .a 0x0F#8 [4#8, 0#8, 0#8]).Asked .a 7#8 (.retire 1024 0) ∧
    (asking .a 0x0F#8 [3#8, 255#8, 9#8] (entryAs 1023 (rowEntry .active) serviceState)).Asked .a 7#8 (.retire 1023 9) ∧
    (entryAs 1023 (rowEntry .active) serviceState).body.dir[(1023 : EntryNo)] = ⟨9#8, some (rowEntry .active)⟩ ∧
    (entryAs 1023 (rowEntry .pending) readyState).body.dir[(1023 : EntryNo)] = ⟨9#8, some (rowEntry .pending)⟩ ∧
    serviceState.body.chan[(0 : ChanId)].state = .service ∧ readyState.body.chan[(0 : ChanId)].state = .ready ∧
    State.reset.body.chan[(0 : ChanId)].state = .down ∧
    (entryAs 1 { rowEntry .active with repl := some (.target (.device 0 0)) } serviceState).body.dir[(1 : EntryNo)].live =
      some { rowEntry .active with repl := some (.target (.device 0 0)) } ∧
    (State.reset.body.dir[(4 : EntryNo)].gen.toNat = 0 ∧ State.reset.body.dir[(4 : EntryNo)].live = none) := by
  unfold State.Asked; decide +kernel

/-- R19's second request: the generation has moved, so it is refused STALE. -/
theorem test_retire_twice : gives (exec (.retire .a) (asking .a 0x0F#8 [0#8, 4#8, 8#8]
    (entryAs 4 (rowEntry .active) serviceState))) (fun t =>
      t.portA.reply == some (replyFrame 7#8 0x0F#8 .stale []) &&
        t.body.dir[(4 : EntryNo)] == ⟨9#8, some (rowEntry .active)⟩) = true := by decide +kernel

theorem noOverflow_of {b : Body} (h : (allChans.all fun l => !b.link[l].overflow) = true) : NoOverflow b := by
  intro l
  have := List.all_eq_true.1 h l (List.mem_finRange l)
  simpa using this

theorem witness_Refilled :
    (asking .a 0x10#8 [0#8, 4#8, 9#8] (entryAs 4 (rowEntry .refill) serviceState)).Asked .a 7#8 (.refilled 4 9) ∧
    (asking .a 0x10#8 [4#8, 0#8, 9#8]).Asked .a 7#8 (.refilled 1024 9) ∧
    (entryAs 4 (rowEntry .refill) serviceState).body.dir[(4 : EntryNo)] = ⟨9#8, some (rowEntry .refill)⟩ ∧
    NoOverflow (entryAs 4 (rowEntry .refill) serviceState).body := by
  refine ⟨by unfold State.Asked; decide +kernel, by unfold State.Asked; decide +kernel, by decide +kernel,
    noOverflow_of (by decide +kernel)⟩

/-! ### Requests of classes CONTROL and OWNER -/

theorem witness_StartTest : (asking .a 0x11#8 [15#8, 255#8]).Asked .a 7#8 (.startTest 4095) ∧
    (asking .a 0x11#8 [16#8, 0#8]).Asked .a 7#8 (.startTest 4096) ∧ (asking .a 0x11#8 [0#8, 0#8]).Asked .a 7#8 (.startTest 0) ∧
    (∀ c : ChanId, State.reset.body.chan[c].state ∉ [.test, .service, .resync, .lost]) ∧ NoOverflow State.reset.body ∧
    (∀ c : ChanId, State.reset.body.link[c].sendq.length < 176) ∧ Names 4095 11 ∧
    serviceState.body.chan[(0 : ChanId)].state ∈ [.test, .service, .resync, .lost] := by
  refine ⟨by unfold State.Asked; decide +kernel, by unfold State.Asked; decide +kernel,
    by unfold State.Asked; decide +kernel, by decide +kernel, noOverflow_of (by decide +kernel), by decide +kernel,
    by unfold Names; decide, by decide +kernel⟩

/-- A channel in TEST with a step and units. -/
def testState (kind : StepKind := .plan 0) (ph : Phase := .main) : State :=
  invAs 0 inv (chanAs 0 (fun ch => { ch with
    state := .test, phase := some ph, runStart := some 0#32, admission := .held ⟨kind, .parallel⟩, nextToken := 6#8
    step := some ⟨kind, 5#8, [⟨1, 5⟩]⟩, stepTimer := some 0 }) (up 0))

theorem witness_StopTest : (asking .a 0x12#8 [0#8, 1#8] testState).Asked .a 7#8 (.stopTest 1) ∧
    (asking .a 0x12#8 [0#8, 0#8]).Asked .a 7#8 (.stopTest 0) ∧ NoOverflow testState.body ∧
    testState.body.chan[(0 : ChanId)].state = .test ∧ testState.body.chan[(0 : ChanId)].admission.isHeld = true ∧
    testState.body.link[(0 : ChanId)].sendq.length = 0 ∧ Names 1 0 := by
  refine ⟨by unfold State.Asked; decide +kernel, by unfold State.Asked; decide +kernel, noOverflow_of (by decide +kernel),
    by decide +kernel, by decide +kernel, by decide +kernel, by unfold Names; decide⟩

theorem test_stopTest : gives (exec (.stopTest .a) (asking .a 0x12#8 [0#8, 1#8] testState)) (fun t =>
    t.body.chan[(0 : ChanId)].state == .idle && t.body.link[(0 : ChanId)].sendq == [⟨.halt, .none⟩] &&
      t.body.unitsInUse == 0) = true := by decide +kernel

theorem witness_Release : (asking .a 0x13#8 [0#8] readyState).Asked .a 7#8 (.release 0) ∧
    (asking .a 0x13#8 [12#8]).Asked .a 7#8 (.release 12) ∧ readyState.body.chan[(0 : ChanId)].state = .ready ∧
    readyState.body.chan[(0 : ChanId)].releaseOut = false ∧ State.reset.body.chan[(0 : ChanId)].state ≠ .ready := by
  unfold State.Asked; decide +kernel

/-- R95's example. -/
def planOps : List Byte := [7#8, 0#8, 1#8, 3#8, 0#8, 1#8, 3#8, 2#8, 1#8, 3#8, 0#8, 0#8, 0#8, 5#8, 15#8, 0#8]

theorem witness_WritePlan : (asking .a 0x14#8 planOps).Asked .a 7#8
      (.writePlan 7 0 ⟨1, 3, 0, 1, 3, [2, 1, 3, 0, 0, 0], 5, 3840⟩) ∧
    (∀ k x, k < 3 → [2, 1, 3, 0, 0, 0][k]? = some x → x ≤ 3) ∧
    (asking .a 0x14#8 (15#8 :: 1#8 :: List.replicate 14 0#8)).Asked .a 7#8
      (.writePlan 15 1 ⟨0, 0, 0, 0, 0, [0, 0, 0, 0, 0, 0], 0, 0⟩) ∧
    (∀ c : ChanId, State.reset.body.chan[c].state ≠ .test) := by
  refine ⟨by unfold State.Asked; decide +kernel, ?_, by unfold State.Asked; decide +kernel, by decide +kernel⟩
  intro k x hk h
  interval_cases k <;> simp at h <;> omega

theorem test_writePlan : gives (exec (.writePlan .a) (asking .a 0x14#8 planOps)) (fun t =>
    t.plan[(7 : SlotNo)] == some ⟨.down, .colstripe, [.r0, .w1, .r1], 9, false, .serial, 0xF00#12⟩) = true := by decide +kernel

theorem witness_SetConfig : (asking .a 0x15#8 [3#8, 0#8, 0#8, 28#8, 32#8]).Asked .a 7#8 (.setConfig 3 7200) ∧
    (asking .a 0x15#8 [13#8, 255#8, 255#8, 255#8, 255#8]).Asked .a 7#8 (.setConfig 13 4294967295) ∧
    (asking .a 0x15#8 [14#8, 0#8, 0#8, 0#8, 0#8]).Asked .a 7#8 (.setConfig 14 0) ∧
    (asking .a 0x15#8 [1#8, 0#8, 0#8, 0#8, 3#8] testState).Asked .a 7#8 (.setConfig 1 3) ∧
    testState.body.chan[(0 : ChanId)].state = .test := by unfold State.Asked; decide +kernel

/-- R167's example: the value is clamped and the decay timer restarts. -/
theorem test_setConfig : gives (exec (.setConfig .a) (asking .a 0x15#8 [3#8, 0#8, 0#8, 28#8, 32#8])) (fun t =>
    t.items.decayPeriod == 3600 && t.decayTimer == 3600000 &&
      t.portA.reply == some (replyFrame 7#8 0x15#8 .ok [3#8, 0#8, 0#8, 14#8, 16#8, 1#8])) = true := by decide +kernel

theorem witness_Attention : (asking .a 0x16#8 [3#8, 255#8]).Asked .a 7#8 (.clearAttention 1023) ∧
    (asking .a 0x16#8 [4#8, 0#8]).Asked .a 7#8 (.clearAttention 1024) ∧
    (asking .a 0x17#8 [3#8, 255#8, 1#8, 1#8]).Asked .a 7#8 (.setAttention 1023 1 1) ∧
    (asking .a 0x17#8 [0#8, 1#8, 2#8, 0#8]).Asked .a 7#8 (.setAttention 1 2 0) ∧ NoOverflow State.reset.body := by
  refine ⟨by unfold State.Asked; decide +kernel, by unfold State.Asked; decide +kernel,
    by unfold State.Asked; decide +kernel, by unfold State.Asked; decide +kernel, noOverflow_of (by decide +kernel)⟩

theorem witness_Grant : (asking .a 0x18#8 [1#8, 0#8]).Asked .a 7#8 (.grant 1 0) ∧
    (asking .a 0x18#8 [2#8, 0#8]).Asked .a 7#8 (.grant 2 0) := by unfold State.Asked; decide +kernel

theorem witness_ControlReset : (asking .a 0x19#8 [] testState).Asked .a 7#8 .controlReset ∧ NoOverflow testState.body ∧
    (∀ c : ChanId, testState.body.chan[c].admission ≠ .none → testState.body.chan[c].state = .test) := by
  refine ⟨by unfold State.Asked; decide +kernel, noOverflow_of (by decide +kernel), by decide +kernel⟩

/-! ### Links -/

theorem witness_TrainingTimer : (linkAs 11 (fun k => { k with training := some 0 })).body.link[(11 : ChanId)].training = some 0 ∧
    (linkAs 11 (fun k => { k with training := some 0 })).body.link[(11 : ChanId)].state = .training ∧
    State.reset.body.link[(11 : ChanId)].training ≠ some 0 := by decide +kernel

/-- One frame in flight, out of time. -/
def timedOut : State := up 0 (linkAs 0 (fun k => { k with inflight := [⟨15#4, .clearSet, .clearSet, 0⟩] }))

theorem witness_LinkLeavesUp : timedOut.running = true ∧ timedOut.body.link[(0 : ChanId)].state = .up ∧
    timedOut.body.link[(0 : ChanId)].inflight = [⟨15#4, .clearSet, .clearSet, 0⟩] ∧
    State.reset.body.link[(0 : ChanId)].state ≠ .up ∧ testState.body.chan[(0 : ChanId)].state ∈ [.test, .ready] ∧
    serviceState.body.chan[(0 : ChanId)].state ∈ [.service, .resync] ∧
    State.reset.body.chan[(0 : ChanId)].state ∈ [.down, .lost, .failed] ∧
    (chanAs 0 fun ch => { ch with state := .idle }).body.chan[(0 : ChanId)].state = .idle := by decide +kernel

theorem test_lossOfSignal_service : gives (exec (.lossOfSignal 0) (entryAs 4 (rowEntry .installing) serviceState)) (fun t =>
    t.body.chan[(0 : ChanId)].state == .lost && t.body.dir[(4 : EntryNo)] == ⟨10#8, some (rowEntry .pending)⟩ &&
      t.body.att[(3 : Fin 10)].value == some (.channel 0) && t.body.link[(0 : ChanId)].state == .training) = true := by
  decide +kernel

/-- A queued frame of each kind, a full in-flight list, and a held number. -/
theorem witness_FrameSent :
    (up 0 (linkAs 0 fun k => { k with sendq := [⟨.halt, .none⟩] })).body.link[(0 : ChanId)].sendq = [⟨.halt, .none⟩] ∧
    (up 0).body.link[(0 : ChanId)].state = .up ∧ (up 0).body.link[(0 : ChanId)].lane = none ∧
    Msg.halt.type ∉ [0x05#8, 0x06#8, 0x07#8, 0x09#8, 0x0A#8] ∧ Msg.clearSet.type ∈ [0x05#8, 0x06#8, 0x07#8, 0x09#8, 0x0A#8] ∧
    timedOut.body.link[(0 : ChanId)].inflight.length ≤ 8 ∧ State.held.running = false ∧
    State.reset.body.link[(0 : ChanId)].lane ≠ none := by decide +kernel

theorem test_frameSent : gives (exec (.frameSent 0) (up 0 (linkAs 0 fun k => { k with
    sendq := [⟨.clearSet, .clearSet⟩], nextTx := 15#4 }))) (fun t =>
      t.body.link[(0 : ChanId)].lane == some ⟨15#4, .clearSet⟩ && t.body.link[(0 : ChanId)].nextTx == 0#4 &&
        t.body.link[(0 : ChanId)].inflight == [⟨15#4, .clearSet, .clearSet, 50⟩]) = true := by decide +kernel

theorem test_frameSent_waits : gives (exec (.frameSent 0) (up 0 (linkAs 0 fun k => { k with
    sendq := [⟨.halt, .none⟩], nextTx := 2#4, inflight := [⟨2#4, .clearSet, .clearSet, 50⟩] }))) (fun t =>
      t.body.link[(0 : ChanId)].lane == none && t.body.link[(0 : ChanId)].sendq.length == 1) = true := by decide +kernel

/-- A run at its first position with one PENDING entry, with room and without. -/
def runState : State := entryAs 4 (rowEntry .pending) (chanAs 0 (fun ch => { ch with installPos := some 4, walkPos := some 4 }) (up 0))

theorem witness_InstallRuns : runState.body.link[(0 : ChanId)].state = .up ∧
    runState.body.link[(0 : ChanId)].overflow = false ∧ runState.body.chan[(0 : ChanId)].installPos = some 4 ∧
    runState.body.chan[(0 : ChanId)].walkPos = some 4 ∧
    runState.body.dir[(4 : EntryNo)].live = some (rowEntry .pending) ∧ (rowEntry .pending).repl ≠ none ∧
    runState.body.link[(0 : ChanId)].sendq.length + 1 ≤ 160 ∧
    160 ≤ (linkAs 0 (fun k => { k with sendq := List.replicate 160 ⟨.halt, .none⟩ }) runState
      ).body.link[(0 : ChanId)].sendq.length ∧
    State.reset.body.chan[(0 : ChanId)].installPos = none ∧ State.reset.body.chan[(0 : ChanId)].walkPos = none := by
  decide +kernel

/-- A run with room for one frame and two PENDING entries to send. -/
def fillingState : State := entryAs 9 { rowEntry .pending with key := ⟨0, 1, some 6⟩ }
  (linkAs 0 (fun k => { k with sendq := List.replicate 159 ⟨.halt, .none⟩ }) runState)

theorem witness_InstallRunFills : fillingState.body.link[(0 : ChanId)].sendq.length = 159 ∧
    fillingState.body.link[(0 : ChanId)].state = .up ∧ fillingState.body.chan[(0 : ChanId)].installPos = some 4 ∧
    fillingState.body.dir[(4 : EntryNo)].live = some (rowEntry .pending) := by decide +kernel

/-- The run fills the queue to 160 and stops at the entry it would send next (R139). -/
theorem test_installRun_fills :
    (fillingState.body.continueInstalls 0).link[(0 : ChanId)].sendq.length = 160 ∧
    (fillingState.body.continueInstalls 0).chan[(0 : ChanId)].installPos = some 9 ∧
    (fillingState.body.continueInstalls 0).dir[(4 : EntryNo)] = ⟨10#8, some (rowEntry .installing)⟩ ∧
    (fillingState.body.continueWalk 0).chan[(0 : ChanId)].walkPos = some 9 := by decide +kernel

/-- A HELLO with version 1 and sequence 3, as bytes. -/
def helloBytes : List Byte := sealed [0x81#8, 3#8, 1#8, 1#8]

theorem witness_ArrivingFrame : parseLinkFrame helloBytes = some ⟨0x81#8, 3#4, [1#8]⟩ ∧
    parseLinkFrame [0x81#8, 3#8, 1#8, 1#8, 0#8, 0#8] = none ∧ parseLinkFrame (sealed [0x83#8, 3#8, 29#8]) = none ∧
    State.reset.body.link[(0 : ChanId)].state = .training ∧ (up 0).body.link[(0 : ChanId)].state = .up ∧
    (up 0).body.link[(0 : ChanId)].expected ≠ 3#4 ∧ (up 0).body.link[(0 : ChanId)].rx = [] ∧
    (holding 0 0x81#8 [1#8] (up 0)).body.link[(0 : ChanId)].rx = [⟨0x81#8, 3#4, [1#8]⟩] ∧
    testState.body.chan[(0 : ChanId)].state = .test := by decide +kernel

theorem test_arrival_gap_in_test : gives (exec (.frameArrival 0 helloBytes) testState) (fun t =>
    t.body.chan[(0 : ChanId)].cause == some .linkError && t.body.link[(0 : ChanId)].gap &&
      t.body.link[(0 : ChanId)].expected == 4#4) = true := by decide +kernel

theorem test_arrival_overrun : gives (exec (.frameArrival 0 helloBytes) (holding 0 0x81#8 [1#8] (up 0))) (fun t =>
    t.body.link[(0 : ChanId)].counters.overruns == 1 && t.body.link[(0 : ChanId)].expected == 0#4) = true := by decide +kernel

theorem witness_Malformed : (holding 0 0x01#8 [1#8, 0#8]).HoldsFrame 0 ⟨0x01#8, 3#4, [1#8, 0#8]⟩ ∧
    (⟨0x01#8, 3#4, [1#8, 0#8]⟩ : RxFrame).wellFormed = false ∧
    (⟨0x87#8, 3#4, [0#8, 0#8, 0#8, 0#8, 2#8]⟩ : RxFrame).wellFormed = true ∧
    (⟨0x87#8, 3#4, [0#8, 0#8, 0#8, 0#8, 3#8]⟩ : RxFrame).wellFormed = false ∧
    (⟨0x85#8, 3#4, [0#8, 2#8]⟩ : RxFrame).wellFormed = false := by
  unfold State.HoldsFrame; decide +kernel

theorem witness_Hello : (holding 0 0x81#8 [1#8]).HoldsFrame 0 ⟨0x81#8, 3#4, [1#8]⟩ ∧
    (⟨0x81#8, 3#4, [1#8]⟩ : RxFrame).is 0x81#8 = true ∧
    (holding 0 0x81#8 [2#8]).HoldsFrame 0 ⟨0x81#8, 3#4, [2#8]⟩ ∧ (up 0).body.link[(0 : ChanId)].state ≠ .training ∧
    State.reset.body.chan[(0 : ChanId)].state = .down ∧
    (chanAs 0 fun ch => { ch with state := .test, linkWait := some 5 }).body.chan[(0 : ChanId)].linkWait ≠ none ∧
    (chanAs 0 fun ch => { ch with state := .lost }).body.chan[(0 : ChanId)].state = .lost := by
  unfold State.HoldsFrame; decide +kernel

theorem test_hello_resync : gives (exec (.hello 0) (holding 0 0x81#8 [1#8] (chanAs 0 (fun ch => { ch with state := .lost })
    (entryAs 4 (rowEntry .active))))) (fun t =>
      t.body.chan[(0 : ChanId)].state == .resync && t.body.chan[(0 : ChanId)].awaited == some 2 &&
        t.body.link[(0 : ChanId)].expected == 4#4 && t.body.dir[(4 : EntryNo)] == ⟨9#8, some (rowEntry .active)⟩ &&
        t.body.link[(0 : ChanId)].sendq.length == 2) = true := by decide +kernel

/-! ### Client messages -/

/-- The GEOMETRY of the small memory, waited for. -/
def geometryState : State := holding 0 0x82#8
  ([4#8, 0#8, 0#8, 4#8, 0#8, 2#8, 1#8, 3#8, 2#8] ++ List.replicate 12 1#8)
  (chanAs 0 (fun ch => { ch with state := .test, phase := some .discover, geomWait := some 50, runStart := some 0#32 }) (up 0))

theorem witness_Geometry : geometryState.HoldsFrame 0
      ⟨0x82#8, 3#4, [4#8, 0#8, 0#8, 4#8, 0#8, 2#8, 1#8, 3#8, 2#8] ++ List.replicate 12 1#8⟩ ∧
    (⟨0x82#8, 3#4, [4#8, 0#8, 0#8, 4#8, 0#8, 2#8, 1#8, 3#8, 2#8] ++ List.replicate 12 1#8⟩ : RxFrame).geometry = geo ∧
    geo.accepted = true ∧ { geo with poolBank := 4 }.accepted = false ∧ geometryState.body.chan[(0 : ChanId)].state = .test ∧
    geometryState.body.chan[(0 : ChanId)].phase = some .discover ∧ geometryState.body.chan[(0 : ChanId)].geomWait ≠ none ∧
    State.reset.body.chan[(0 : ChanId)].state ≠ .test := by unfold State.HoldsFrame; decide +kernel

/-- A kept target, a target that is gone, and a freed entry, in one claim. -/
theorem test_claim : gives (exec (.geometry 0) (entryAs 7 { rowEntry .active with tag := 1#16 }
    (entryAs 6 { rowEntry .active with key := ⟨0, 0, some 9⟩ } (entryAs 4 (rowEntry .active) geometryState)))) (fun t =>
      t.body.dir[(4 : EntryNo)] == ⟨10#8, some (rowEntry .pending)⟩ &&
        t.body.dir[(6 : EntryNo)] == ⟨10#8, some { rowEntry .pending with
          key := ⟨0, 0, some 9⟩, repl := some (.target (.device 0 0)) }⟩ &&
        t.body.dir[(7 : EntryNo)] == ⟨10#8, none⟩ && t.body.chan[(0 : ChanId)].phase == some .poolcheck &&
        t.body.chan[(0 : ChanId)].step == some ⟨.poolcheck, 0#8, []⟩) = true := by decide +kernel

theorem witness_Claim : (entryAs 4 (rowEntry .active) serviceState).body.dir[(4 : EntryNo)].live = some (rowEntry .active) ∧
    (entryAs 4 (rowEntry .active) serviceState).body.inv[(0 : ChanId)] = some inv ∧ (rowEntry .active).tag = inv.tag ∧
    (rowEntry .active).key.bank < inv.geo.banks ∧ inv.geo.ordinary 1 5 = true ∧ inv.slots[0]? = some .free ∧
    inv.spare 0 0 = some .free ∧ inv.geo.ordinary 3 1022 = false ∧ inv.geo.ordinary 3 1021 = true := by decide +kernel

/-- A tag-0 SEED entry for which no target is left is UNRESOLVED with the new device tag (R43, R45). -/
theorem test_claim_unresolved :
    let v := Inventory.build { geo with sparesPerGroup := 0, poolRows := 0 }
    let r : Live := ⟨.unresolved, ⟨8, 1, some 5⟩, none, some (.pool 9), .seed, 0#16, 0⟩
    let s := entryAs 4 r (invAs 8 v)
    (Body.claimVisit s.env 8 (s.body, []) 4).1.dir[(4 : EntryNo)] = ⟨10#8, some { r with tag := v.tag }⟩ ∧ v.tag ≠ 0#16 := by
  decide +kernel

theorem witness_StepDone : (holding 0 0x83#8 [5#8, 0#8] testState).HoldsFrame 0 ⟨0x83#8, 3#4, [5#8, 0#8]⟩ ∧
    (⟨0x83#8, 3#4, [5#8, 0#8]⟩ : RxFrame).is 0x83#8 = true ∧ testState.body.chan[(0 : ChanId)].state = .test ∧
    testState.body.chan[(0 : ChanId)].step = some ⟨.plan 0, 5#8, [⟨1, 5⟩]⟩ ∧
    (State.reset.plan[(3 : SlotNo)].map (·.mandatory)) = some false ∧
    (State.reset.plan[(0 : SlotNo)].map (·.mandatory)) = some true := by unfold State.HoldsFrame; decide +kernel

theorem test_stepDone_next_slot : gives (exec (.stepDone 0) (holding 0 0x83#8 [5#8, 0#8] testState)) (fun t =>
    t.body.chan[(0 : ChanId)].planPos == some 1 && t.body.chan[(0 : ChanId)].step == some ⟨.plan 1, 6#8, []⟩ &&
      t.body.chan[(0 : ChanId)].nextToken == 7#8) = true := by decide +kernel

/-- FAILs in each phase: a slot, a new row, an ACTIVE entry, and each refusal. -/
theorem witness_Fail : (holding 0 0x84#8 [5#8, 1#8, 0#8, 0#8, 5#8] testState).HoldsFrame 0
      ⟨0x84#8, 3#4, 5#8 :: (be1 1 ++ be3 5)⟩ ∧
    (⟨0x84#8, 3#4, 5#8 :: (be1 255 ++ be3 16777215)⟩ : RxFrame).is 0x84#8 = true ∧ FitsBytes 1 255 ∧ FitsBytes 3 16777215 ∧
    testState.body.inv[(0 : ChanId)] = some inv ∧ ¬BankExcluded testState.body 0 1 ∧
    BankExcluded (entryAs 0 ⟨.active, ⟨0, 1, none⟩, some .exclude, none, .test, 0#16, 0⟩ testState).body 0 1 ∧
    testState.body.findKey ⟨0, 1, some 5⟩ = none ∧
    (entryAs 4 (rowEntry .active) testState).body.findKey ⟨0, 1, some 5⟩ = some 4 ∧ 1 < testState.items.verifyRounds ∧
    ¬3 < testState.items.verifyRounds ∧ inv.exclusions < 32 := by
  refine ⟨by unfold State.HoldsFrame; decide +kernel, by decide +kernel, by unfold FitsBytes; decide, by unfold FitsBytes; decide,
    by decide +kernel, mt (excluded_iff _ _ _).2 (by decide +kernel), (excluded_iff _ _ _).1 (by decide +kernel), ?_⟩
  decide +kernel

/-- A channel in TEST with a step and no inventory. -/
theorem witness_FailNoInventory :
    let s := { testState with body := { testState.body with inv := testState.body.inv.set 0 none } }
    s.body.inv[(0 : ChanId)] = none ∧ s.body.chan[(0 : ChanId)].state = .test ∧ ¬BankExcluded s.body 0 1 ∧
    (holding 0 0x84#8 [5#8, 1#8, 0#8, 0#8, 5#8] s).HoldsFrame 0 ⟨0x84#8, 3#4, 5#8 :: (be1 1 ++ be3 5)⟩ := by
  refine ⟨by decide +kernel, by decide +kernel, mt (excluded_iff _ _ _).2 (by decide +kernel), ?_⟩
  unfold State.HoldsFrame
  decide +kernel

theorem test_fail_main : gives (exec (.fail 0) (holding 0 0x84#8 [5#8, 1#8, 0#8, 0#8, 5#8] testState)) (fun t =>
    t.body.dir[(0 : EntryNo)] ==
      ⟨1#8, some ⟨.pending, ⟨0, 1, some 5⟩, some (.target (.device 0 0)), none, .test, inv.tag, 0⟩⟩ &&
      t.body.chan[(0 : ChanId)].repairs == 1 && t.body.tally 0 1 == 1) = true := by decide +kernel

theorem test_fail_verify : gives (exec (.fail 0) (holding 0 0x84#8 [5#8, 1#8, 0#8, 0#8, 5#8]
    (entryAs 4 (rowEntry .active) (testState (.verify 3) .verify)))) (fun t =>
      t.body.dir[(4 : EntryNo)] == ⟨10#8, some { rowEntry .pending with repl := some .exclude, round := 3 }⟩ &&
      t.body.chan[(0 : ChanId)].roundFailed) = true := by decide +kernel

/-- An INSTALL in flight with sequence 2, its entry INSTALLING with the generation recorded. -/
def ackState (res : Byte) (base : State) : State :=
  holding 0 0x85#8 [2#8, res] (entryAs 4 (rowEntry .installing) (linkAs 0 (fun k => { k with
    inflight := [⟨2#4, .install 1 (some 5) (.target (.pool 0)), .directory 4 9#8 false, 50⟩] }) base))

/-- Channel 0 in RESYNC, its walk ended and one frame awaited. -/
def resyncState : State := invAs 0 inv (chanAs 0 (fun ch => { ch with state := .resync, walkPos := some 1024, awaited := some 1 })
  (up 0))

theorem witness_Ack : (ackState 0#8 serviceState).HoldsFrame 0 ⟨0x85#8, 3#4, [2#8, 0#8]⟩ ∧
    (⟨0x85#8, 3#4, [15#8, 1#8]⟩ : RxFrame).is 0x85#8 = true ∧
    (ackState 0#8 serviceState).body.link[(0 : ChanId)].inflight =
      [⟨2#4, .install 1 (some 5) (.target (.pool 0)), .directory 4 9#8 false, 50⟩] ∧
    (ackState 0#8 serviceState).body.dir[(4 : EntryNo)] = ⟨9#8, some (rowEntry .installing)⟩ ∧
    serviceState.body.chan[(0 : ChanId)].state = .service ∧ readyState.body.chan[(0 : ChanId)].releaseOut = false ∧
    (chanAs 0 (fun ch => { ch with releaseOut := true }) readyState).body.chan[(0 : ChanId)].releaseOut = true := by
  unfold State.HoldsFrame; decide +kernel

/-- The same frame answered in TEST and in RESYNC, and a RESYNC that is complete with this ACK. -/
theorem witness_AckInTestAndResync :
    (ackState 0#8 testState).HoldsFrame 0 ⟨0x85#8, 3#4, [2#8, 0#8]⟩ ∧ testState.body.chan[(0 : ChanId)].state = .test ∧
    (ackState 0#8 resyncState).HoldsFrame 0 ⟨0x85#8, 3#4, [2#8, 0#8]⟩ ∧
    resyncState.body.chan[(0 : ChanId)].state = .resync ∧ resyncState.body.chan[(0 : ChanId)].walkPos = some 1024 ∧
    resyncState.body.chan[(0 : ChanId)].awaited = some 1 ∧ resyncState.body.chan[(0 : ChanId)].releaseOut = false := by
  unfold State.HoldsFrame; decide +kernel

/-- The last frame awaited is answered, and RELEASE goes out (R123). -/
theorem test_ack_resync : gives (exec (.ack 0) (holding 0 0x85#8 [2#8, 0#8] (linkAs 0 (fun k => { k with
    inflight := [⟨2#4, .clearSet, .clearSet, 50⟩] }) resyncState))) (fun t =>
      t.body.chan[(0 : ChanId)].releaseOut && t.body.chan[(0 : ChanId)].awaited == some 0 &&
        t.body.link[(0 : ChanId)].inflight.map (·.note) == [.release .resync false]) = true := by decide +kernel

theorem test_ack_ok : gives (exec (.ack 0) (ackState 0#8 serviceState)) (fun t =>
    t.body.dir[(4 : EntryNo)] == ⟨10#8, some (rowEntry .active)⟩ &&
      t.body.att[(9 : Fin 10)].value == some (.key ⟨0, 1, some 5⟩) &&
      t.body.link[(0 : ChanId)].inflight == []) = true := by decide +kernel

theorem test_ack_reject : gives (exec (.ack 0) (ackState 1#8 serviceState)) (fun t =>
    t.body.dir[(4 : EntryNo)] == ⟨10#8, some (rowEntry .pending)⟩ &&
      t.body.chan[(0 : ChanId)].cause == some .protocol) = true := by decide +kernel

/-- An outstanding install fence with serial 17. -/
def fenceState : State := fenceAs 0 ⟨[], some ⟨17#8, 4, 1, some 5, .install, 0⟩⟩ (entryAs 4 (rowEntry .fencing) serviceState)

theorem witness_Drained : (holding 0 0x86#8 (17#8 :: (be1 1 ++ [0#8] ++ be3 5)) fenceState).HoldsFrame 0
      ⟨0x86#8, 3#4, 17#8 :: (be1 1 ++ [0#8] ++ be3 5)⟩ ∧
    (⟨0x86#8, 3#4, 17#8 :: (be1 1 ++ [1#8] ++ be3 5)⟩ : RxFrame).is 0x86#8 = true ∧
    (fenceState.body.fenceOf 0).out = some ⟨17#8, 4, 1, some 5, .install, 0⟩ ∧
    fenceState.body.chan[(0 : ChanId)].state = .service ∧
    (fenceAs 7 ⟨[4, 5], none⟩).body.fence[(7 : Fin 8)] = ⟨4 :: [5], none⟩ := by unfold State.HoldsFrame; decide +kernel

theorem test_drained : gives (exec (.drained 0) (holding 0 0x86#8 [17#8, 1#8, 0#8, 0#8, 0#8, 5#8] fenceState)) (fun t =>
    t.body.dir[(4 : EntryNo)] == ⟨10#8, some (rowEntry .installing)⟩ && (t.body.fenceOf 0).out == none &&
      t.body.link[(0 : ChanId)].sendq ==
        [⟨.install 1 (some 5) (.target (.pool 0)), .directory 4 10#8 false⟩]) = true := by decide +kernel

theorem witness_Reports : (holding 0 0x87#8 (be1 1 ++ be3 5 ++ [2#8]) serviceState).HoldsFrame 0
      ⟨0x87#8, 3#4, be1 1 ++ be3 5 ++ [2#8]⟩ ∧
    (⟨0x87#8, 3#4, be1 1 ++ be3 5 ++ [2#8]⟩ : RxFrame).is 0x87#8 = true ∧ ¬BankExcluded serviceState.body 0 1 ∧
    serviceState.body.inv[(0 : ChanId)] = some inv ∧ inv.geo.ordinary 1 5 = true ∧
    (watchAs 0 ⟨0, 1, 5, 1023, 255, false⟩ serviceState).body.findWatch 0 1 5 = some 0 ∧
    serviceState.body.watch[(0 : WatchNo)] = none ∧
    { State.reset with decayTimer := 0 }.decayTimer = 0 ∧ State.reset.decayTimer ≠ 0 := by
  refine ⟨by unfold State.HoldsFrame; decide +kernel, by decide +kernel, mt (excluded_iff _ _ _).2 (by decide +kernel), ?_⟩
  decide +kernel

/-- A full table: 256 records with the scores 30 to 285. -/
def fullTable : State := { serviceState with body := { serviceState.body with
  watch := Vector.ofFn fun i : Fin 256 => some ⟨1, 0, i.val, i.val + 30, 0, false⟩ } }

theorem witness_ReportsFullTable : (holding 0 0x87#8 (be1 1 ++ be3 5 ++ [2#8]) fullTable).HoldsFrame 0
      ⟨0x87#8, 3#4, be1 1 ++ be3 5 ++ [2#8]⟩ ∧ (∀ i : WatchNo, fullTable.body.watch[i].isSome = true) ∧
    fullTable.body.watch[(0 : WatchNo)] = some ⟨1, 0, 0, 30, 0, false⟩ ∧ fullTable.body.findWatch 0 1 5 = none := by
  unfold State.HoldsFrame; decide +kernel

/-- A UE takes the place of the lowest score, and WATCH_FULL is raised (R51). -/
theorem test_report_full : gives (exec (.report 0) (holding 0 0x87#8 [1#8, 0#8, 0#8, 5#8, 2#8] fullTable)) (fun t =>
    t.body.watch[(0 : WatchNo)] == some ⟨0, 1, 5, 512, 0, true⟩ && t.body.att[Condition.watchFull.num].pending) = true := by
  decide +kernel

/-- A UE on an unwatched row is scored and repaired at once. -/
theorem test_report_ue : gives (exec (.report 0) (holding 0 0x87#8 [1#8, 0#8, 0#8, 5#8, 2#8] serviceState)) (fun t =>
    t.body.watch[(0 : WatchNo)] == some ⟨0, 1, 5, 512, 0, true⟩ &&
      t.body.dir[(0 : EntryNo)] ==
        ⟨2#8, some ⟨.fencing, ⟨0, 1, some 5⟩, some (.target (.pool 0)), none, .score, inv.tag, 0⟩⟩) = true := by decide +kernel

theorem witness_Trigger : serviceState.env.items.repairThreshold = 256 ∧
    serviceState.body.chan[(0 : ChanId)].state = .service ∧ serviceState.body.fence[(0 : Fin 8)].queue.length < 32 ∧
    LowestFree serviceState.body 0 ∧ serviceState.body.choose serviceState.env 0 1 = some (.target (.pool 0)) ∧
    (entryAs 4 (rowEntry .active) serviceState).body.findKey ⟨0, 1, some 5⟩ = some 4 ∧
    ((entryAs 4 (rowEntry .active) serviceState).body.retarget serviceState.env 4 none).isSome = true := by
  refine ⟨by decide, by decide +kernel, by decide +kernel, (lowestFree_iff _ _).1 (by decide +kernel), ?_⟩
  decide +kernel

theorem witness_Query : (holding 0 0x88#8 (be1 1 ++ be3 5) serviceState).HoldsFrame 0 ⟨0x88#8, 3#4, be1 1 ++ be3 5⟩ ∧
    (⟨0x88#8, 3#4, be1 1 ++ be3 5⟩ : RxFrame).is 0x88#8 = true ∧ serviceState.body.inv[(0 : ChanId)] = some inv ∧
    serviceState.body.rowStatus 0 3 1021 = .normal ∧
    (watchAs 0 ⟨0, 1, 5, 40, 2, false⟩ serviceState).body.rowStatus 0 1 5 = .watched 40 ∧
    (entryAs 4 (rowEntry .fencing) serviceState).body.rowStatus 0 1 5 = .fenced ∧
    (entryAs 4 (rowEntry .removing) serviceState).body.rowStatus 0 1 5 = .repairedPool 3 1022 := by
  unfold State.HoldsFrame; decide +kernel

/-- Log 29: in an excluded pool bank an ordinary row is EXCLUDED and a pool-region row NORMAL. -/
theorem test_query_excluded_pool_bank :
    let b := (entryAs 0 ⟨.active, ⟨0, 3, none⟩, some .exclude, none, .test, 0#16, 0⟩ serviceState).body
    b.rowStatus 0 3 1021 = .excluded ∧ b.rowStatus 0 3 1022 = .normal := by decide +kernel

/-! ### Timers and what the commands share -/

theorem witness_RunTimers :
    (chanAs 0 fun ch => { ch with state := .test, linkWait := some 0 }).body.chan[(0 : ChanId)].linkWait = some 0 ∧
    (chanAs 0 fun ch => { ch with state := .test, geomWait := some 0 }).body.chan[(0 : ChanId)].geomWait = some 0 ∧
    testState.body.chan[(0 : ChanId)].stepTimer = some 0 ∧ testState.running = true ∧
    { testState with now := 30000#32 }.body.elapsed { testState with now := 30000#32 }.env 0 = 30000 ∧
    testState.items.bootBudget = 30000 := by decide +kernel

theorem test_stepTimer : gives (exec (.stepTimerExpiry 0) testState) (fun t =>
    t.body.chan[(0 : ChanId)].state == .failed && t.body.chan[(0 : ChanId)].cause == some .stepTimeout &&
      t.body.unitsInUse == 0 && t.body.link[(0 : ChanId)].sendq == [⟨.halt, .none⟩]) = true := by decide +kernel

theorem witness_FenceTimeout : fenceState.running = true ∧
    fenceState.body.fence[(0 : Fin 8)].out = some ⟨17#8, 4, 1, some 5, .install, 0⟩ ∧
    fenceState.body.dir[(4 : EntryNo)].live = some (rowEntry .fencing) ∧ State.reset.body.fence[(7 : Fin 8)].out = none := by
  decide +kernel

theorem test_fenceTimeout : gives (exec (.fenceTimerExpiry 0) fenceState) (fun t =>
    t.body.dir[(4 : EntryNo)] == ⟨10#8, none⟩ && t.body.link[(0 : ChanId)].sendq == [⟨.lift 17#8, .lift 17#8⟩] &&
      t.body.att[(2 : Fin 10)].value == some (.key ⟨0, 1, some 5⟩)) = true := by decide +kernel

theorem witness_Failure : testState.body.chan[(0 : ChanId)].state ≠ .failed ∧
    (chanAs 0 fun ch => { ch with state := .failed }).body.chan[(0 : ChanId)].state = .failed ∧
    fenceState.body.fence[(0 : Fin 8)].out = some ⟨17#8, 4, 1, some 5, .install, 0⟩ ∧
    testState.body.fence[(0 : Fin 8)].out = none := by decide +kernel

theorem witness_Targets : serviceState.body.inv[(0 : ChanId)] = some inv ∧ Least (fun k => inv.slots[k]? = some .free) 0 ∧
    testState.body.chan[(0 : ChanId)].state = .test ∧ testState.env.items.deviceSparesUse = 1 ∧ inv.spare 1 0 = some .free ∧
    (entryAs 4 (rowEntry .active) testState).body.dir[(4 : EntryNo)].live = some (rowEntry .active) ∧
    LowestFree testState.body 0 ∧ testState.env.items.bankFailLimit = 16 ∧
    ((inv.tallies.modify 1 (· + 1))[1]?).getD 0 = 1 ∧ ((([0, 16].modify 1 (· + 1))[1]?).getD 0 = 17) := by
  refine ⟨by decide +kernel, ⟨by decide, by omega⟩, by decide +kernel, by decide, by decide, by decide +kernel,
    (lowestFree_iff _ _).1 (by decide +kernel), by decide, by decide, by decide⟩

/-- R40: past the limit a BUFFER bank is excluded whole. -/
theorem test_bankLimit : gives (exec (.fail 0) (holding 0 0x84#8 [5#8, 1#8, 0#8, 0#8, 6#8] (invAs 0 { inv with
    tallies := [0, 16, 0, 0] } (entryAs 0 (rowEntry .active) testState)))) (fun t =>
      t.body.dir[(0 : EntryNo)].live == none && t.body.dir[(1 : EntryNo)].live == none && t.body.dir[(2 : EntryNo)] ==
        ⟨1#8, some ⟨.pending, ⟨0, 1, none⟩, some .exclude, none, .test, inv.tag, 0⟩⟩ &&
      t.body.chan[(0 : ChanId)].repairs == 2) = true := by decide +kernel

/-- A full send queue. -/
def fullState : State := linkAs 0 (fun k => { k with sendq := List.replicate 176 ⟨.halt, .none⟩ }) (holding 0 0x88#8
  [1#8, 0#8, 0#8, 5#8] serviceState)

theorem witness_EndOfChange : (up 0).body.link[(0 : ChanId)].state = .up ∧ (up 0).body.link[(0 : ChanId)].overflow = false ∧
    fullState.body.link[(0 : ChanId)].sendq.length = 176 ∧ State.reset.body.link[(0 : ChanId)].state ≠ .up ∧
    (linkAs 0 fun k => { k with overflow := true }).body.link[(0 : ChanId)].overflow = true ∧ NoOverflow State.reset.body := by
  refine ⟨by decide +kernel, by decide +kernel, by decide +kernel, by decide +kernel, by decide +kernel,
    noOverflow_of (by decide +kernel)⟩

theorem test_send_overflow : gives (exec (.query 0) fullState) (fun t =>
    t.body.chan[(0 : ChanId)].state == .lost && t.body.link[(0 : ChanId)].state == .training &&
      t.body.link[(0 : ChanId)].counters.sendOverflows == 1 && t.body.link[(0 : ChanId)].counters.ackTimeouts == 1) = true := by
  decide +kernel

theorem witness_Arbiter :
    (chanAs 0 fun ch => { ch with admission := .waiting ⟨.plan 4, .serial⟩ }).body.chan[(0 : ChanId)].admission =
      .waiting ⟨.plan 4, .serial⟩ ∧ State.reset.body.unitsInUse + 3 ≤ State.reset.items.powerCeiling ∧
    State.reset.plan[(4 : SlotNo)].isSome = true ∧ State.reset.body.chan[(0 : ChanId)].admission = .none := by decide +kernel

theorem witness_Phases : testState.body.inv[(0 : ChanId)] = some inv ∧ inv.geo.poolRows ≠ 0 ∧
    testState.body.installsOpen 0 = false ∧ runState.body.installsOpen 0 = true ∧
    testState.env.items.autoRelease = 1 ∧ testState.env.plan[(6 : SlotNo)] = none ∧
    (testState.env.plan[(0 : SlotNo)].map fun x => x.mask.getLsbD 0) = some true := by decide +kernel

/-- A state with the properties that every step keeps, and its step: the part while RSTn is low. -/
theorem witness_StepKeeps : Inv State.held ∧ step State.held = .next State.held := by
  have hd : ∀ e : EntryNo, State.held.body.dir[e].live = none := by
    intro e
    simp [State.held, Body.initial, Entry.initial]
  have hw : ∀ i : WatchNo, State.held.body.watch[i] = none := by
    intro i
    simp [State.held, Body.initial]
  have hl : ∀ l : ChanId, State.held.body.link[l].sendq = [] ∧ State.held.body.link[l].inflight = [] ∧
      State.held.body.link[l].rx = [] ∧ State.held.body.link[l].overflow = false := by decide +kernel
  refine ⟨⟨by unfold ItemsInRange; decide +kernel, ⟨by decide +kernel, by decide +kernel⟩, ⟨?_, ?_⟩, ⟨?_, ?_⟩, ⟨by decide +kernel, ?_⟩,
    fun l => (hl l).2.2.2, fun l _ => ⟨(hl l).1, (hl l).2.1⟩, ?_, ?_⟩, rfl⟩
  · intro i w h
    rw [hw i] at h
    cases h
  · intro i j w v h
    rw [hw i] at h
    cases h
  · intro i j r q h
    rw [hd i] at h
    cases h
  · intro i j r q h
    rw [hd i] at h
    cases h
  · intro l
    rw [(hl l).1, (hl l).2.1, (hl l).2.2.1]
    simp
  all_goals exact ⟨by decide, by decide, by decide, by simp [State.held, Port.initial], by simp [State.held, Port.initial],
    by simp [State.held, Port.initial]⟩

end Sys2Proof.Tests
end

section
/-! SUPPORT. The repair directory: REFILLED (R20). First what the end of a change leaves of attention when the change raised one edge
condition or none, then what REFILLED does to the blocks, then how each REFILLED is answered. -/

namespace Sys2Proof.Proofs.RepairDirectory

open Sys2Proof Sys2Proof.Machine Sys2Proof.Laws

/-! ### Attention at the end of a change -/

/-- The end of a change that raised nothing moves the level conditions alone. -/
theorem finish_attention_of_same {b b' : Body} (env : Env) (ho : NoOverflow b') (ha : b'.att = b.att) :
    AttentionBut [] env b (b'.finish env) := by
  obtain ⟨-, hlevels, hrest⟩ := finish_attention ho env
  refine ⟨hlevels, ?_⟩
  rw [← ha]
  exact hrest

/-- The end of a change that raised one edge condition keeps its occurrence, and moves besides it the level conditions alone. -/
theorem finish_attention_of_raise {b b' : Body} (env : Env) {k : Condition} {v : CondValue} (hk : isLevel k.num = false)
    (ho : NoOverflow b') (ha : b'.att = (b.raise k v).att) :
    AttentionBut [k.num] env b (b'.finish env) ∧ (b'.finish env).att[k.num] = b.att[k.num].occur v := by
  obtain ⟨-, hlevels, hrest⟩ := finish_attention ho env
  have hother : ∀ n : Fin 10, k.num ≠ n → b'.att[n] = b.att[n] := fun n hn => by
    rw [ha]
    exact modCond_other b k _ hn
  have hraised : b'.att[k.num] = b.att[k.num].occur v := by
    rw [ha]
    exact modCond_same b k _
  refine ⟨⟨hlevels, fun n => ⟨fun hn => ?_, fun hn hnot => ?_⟩⟩, ?_⟩
  · have hne : k.num ≠ n := by
      rintro rfl
      simp [hk] at hn
    rw [← hother n hne]
    exact (hrest n).1 hn
  · have hne : k.num ≠ n := by
      rintro rfl
      exact hnot List.mem_cons_self
    rw [← hother n hne]
    exact (hrest n).2 hn List.not_mem_nil
  · rw [(hrest k.num).2 hk List.not_mem_nil, hraised]

/-! ### What REFILLED does to the blocks -/

/-- R20 in a channel outside SERVICE: the entry becomes ACTIVE, and nothing is raised. -/
theorem refilled_quiet {b : Body} {r : Live} (e : EntryNo) (h : b.chan[r.key.chan].state ≠ .service) :
    b.refilled e r = b.activate e := if_neg h

/-- R20 in a channel in SERVICE: the entry becomes ACTIVE, and REPAIR_DONE is raised with its key. -/
theorem refilled_service {b : Body} {r : Live} (e : EntryNo) (h : b.chan[r.key.chan].state = .service) :
    b.refilled e r = (b.activate e).raise .repairDone (.key r.key) := if_pos h

/-- R20 changes the entry, the watch table and attention alone; the watch table is as activation leaves it. -/
theorem refilled_rest {b : Body} {e : EntryNo} {r : Live} (h : b.dir[e].live = some r) :
    b.refilled e r =
      { b with
        dir := b.dir.set e ⟨b.dir[e].gen + 1#8, some { r with st := .active }⟩
        watch := (b.activate e).watch
        att := (b.refilled e r).att } := by
  obtain ⟨b1, hb1, hrest, -⟩ := activate_eq h
  by_cases hs : b.chan[r.key.chan].state = .service
  · rw [refilled_service e hs, hb1, hrest]
    rfl
  · rw [refilled_quiet e hs, hb1, hrest]

/-- Activation leaves attention as it is. -/
theorem activate_att {b : Body} {e : EntryNo} {r : Live} (h : b.dir[e].live = some r) : (b.activate e).att = b.att := by
  obtain ⟨b1, hb1, hrest, -⟩ := activate_eq h
  rw [hb1, hrest]

/-- R13: activation frees the watch record of the entry's key, and no other. -/
theorem activate_watch {b : Body} {e : EntryNo} {r : Live} (h : b.dir[e].live = some r) (i : WatchNo) :
    (b.activate e).watch[i] = match b.watch[i] with
      | some w => if w.chan = r.key.chan ∧ w.bank = r.key.bank ∧ some w.row = r.key.row then none else some w
      | none => none := by
  obtain ⟨b1, hb1, -, hwatch⟩ := activate_eq h
  rw [hb1, hwatch]
  cases b.watch[i] <;> rfl

/-- REFILLED offers no frame, so it overflows no send queue. -/
theorem refilled_noOverflow {b : Body} {e : EntryNo} {r : Live} (h : b.dir[e].live = some r) (ho : NoOverflow b) :
    NoOverflow (b.refilled e r) := by
  rw [refilled_rest h]
  exact ho

/-- R20 with the end of its change: the blocks but for attention. -/
theorem refilled_finish_rest {b : Body} {e : EntryNo} {r : Live} (env : Env) (h : b.dir[e].live = some r) (ho : NoOverflow b) :
    (b.refilled e r).finish env =
      { b with
        dir := b.dir.set e ⟨b.dir[e].gen + 1#8, some { r with st := .active }⟩
        watch := (b.activate e).watch
        att := ((b.refilled e r).finish env).att } := by
  obtain ⟨hclean, -⟩ := finish_attention (refilled_noOverflow h ho) env
  rw [hclean, refilled_rest h]

/-- R20 outside SERVICE: attention but for the level conditions is as before. -/
theorem refilled_finish_quiet {b : Body} {e : EntryNo} {r : Live} (env : Env) (h : b.dir[e].live = some r) (ho : NoOverflow b)
    (hs : b.chan[r.key.chan].state ≠ .service) : AttentionBut [] env b ((b.refilled e r).finish env) := by
  refine finish_attention_of_same env (refilled_noOverflow h ho) ?_
  rw [refilled_quiet e hs, activate_att h]

/-- R20 in SERVICE: REPAIR_DONE has occurred with the entry's key, and besides it the level conditions alone have moved. -/
theorem refilled_finish_service {b : Body} {e : EntryNo} {r : Live} (env : Env) (h : b.dir[e].live = some r) (ho : NoOverflow b)
    (hs : b.chan[r.key.chan].state = .service) :
    AttentionBut [9] env b ((b.refilled e r).finish env) ∧
    ((b.refilled e r).finish env).att[(9 : Fin 10)] = b.att[(9 : Fin 10)].occur (.key r.key) := by
  refine finish_attention_of_raise (k := .repairDone) env rfl (refilled_noOverflow h ho) ?_
  rw [refilled_service e hs]
  simp only [Body.raise, Body.modCond, activate_att h]

/-! ### How a REFILLED is answered -/

/-- The answer to REFILLED on an entry number that there is. -/
theorem refilled_answers {s t : State} {p : PortId} {tag : Byte} {n gen : Nat} {e : EntryNo} {st : Status} {payload : List Byte}
    (h : s.Asked p tag (.refilled n gen)) (he : e.val = n) (ha : s.refilledAnswer e gen = ⟨t, st, payload⟩) :
    Answers s p tag (.refilled n gen) t st payload :=
  answers_of h rfl rfl (by simp only [(entryOf_some n e).2 he, ha])

/-- R20, first check: an entry number above 1023 is refused BADARG. -/
theorem refilled_refused_number {s : State} {p : PortId} {tag : Byte} {n gen : Nat} (h : s.Asked p tag (.refilled n gen))
    (hn : 1023 < n) : Refused s p tag (.refilled n gen) .badArg :=
  refused_of h rfl rfl (by simp only [(entryOf_none n).2 hn])

section Answers

variable {s : State} {e : EntryNo} {gen : Nat}

/-- R20, second check: another generation is refused STALE. -/
theorem refilledAnswer_stale (hg : s.body.dir[e].gen.toNat ≠ gen) : s.refilledAnswer e gen = s.refuse .stale := if_pos hg

/-- R20, third check: a FREE entry is refused NOTFOUND. -/
theorem refilledAnswer_free (hg : s.body.dir[e].gen.toNat = gen) (hl : s.body.dir[e].live = none) :
    s.refilledAnswer e gen = s.refuse .notFound := by
  simp only [State.refilledAnswer, hg, hl, ne_eq, not_true_eq_false, if_false]

/-- R20, last check: an entry in a state other than REFILL is refused BADARG. -/
theorem refilledAnswer_notRefill {r : Live} (hg : s.body.dir[e].gen.toNat = gen) (hl : s.body.dir[e].live = some r)
    (hr : r.st ≠ .refill) : s.refilledAnswer e gen = s.refuse .badArg := by
  simp only [State.refilledAnswer, hg, hl, hr, ne_eq, not_true_eq_false, not_false_eq_true, if_false, if_true]

/-- R20: a REFILLED that passes its checks answers the entry's state byte and generation. -/
theorem refilledAnswer_refill {r : Live} (hg : s.body.dir[e].gen.toNat = gen) (hl : s.body.dir[e].live = some r)
    (hr : r.st = .refill) (ho : NoOverflow s.body) :
    s.refilledAnswer e gen =
      ⟨s.withBody (s.body.refilled e r), .ok, [6#8, s.body.dir[e].gen + 1#8]⟩ := by
  have hentry : (s.withBody (s.body.refilled e r)).body.dir[e] = ⟨s.body.dir[e].gen + 1#8, some { r with st := .active }⟩ := by
    rw [withBody_body, refilled_finish_rest s.env hl ho]
    exact Vector.getElem_set_self e.isLt
  have hbytes : (s.withBody (s.body.refilled e r)).body.dir[e].stateBytes = [6#8, s.body.dir[e].gen + 1#8] := by
    rw [hentry]
    rfl
  simp only [State.refilledAnswer, hg, hl, hr, ne_eq, not_true_eq_false, if_false, State.accept, hbytes]

end Answers

/-- Settles O26: each check by its answer, and the effect by what REFILLED and the end of its change do, in SERVICE and outside. -/
theorem refilledMakesEntryActive : Obligations.RefilledMakesEntryActive := by
  unfold Obligations.RefilledMakesEntryActive
  intro s p tag n gen rq b hasked
  refine ⟨refilled_refused_number hasked, fun e he => ⟨fun hg => ?stale, fun hg hl => ?free, fun r hg hl =>
    ⟨fun hr => ?notRefill, fun hr ho => ?refill⟩⟩⟩
  case stale => exact refilled_answers hasked he (refilledAnswer_stale hg)
  case free => exact refilled_answers hasked he (refilledAnswer_free hg hl)
  case notRefill => exact refilled_answers hasked he (refilledAnswer_notRefill hg hl hr)
  case refill =>
    have hrest := refilled_finish_rest s.env hl ho
    have hwatch : ((b.refilled e r).finish s.env).watch = (b.activate e).watch := by rw [hrest]
    refine ⟨s.withBody (b.refilled e r), rfl, refilled_answers hasked he (refilledAnswer_refill hg hl hr ho), ?_, fun i => ?_, ?_⟩
    · rw [withBody_body, hwatch]
      exact hrest
    · rw [withBody_body, hwatch]
      exact activate_watch hl i
    · rw [withBody_body]
      by_cases hs : b.chan[r.key.chan].state = .service
      · obtain ⟨hatt, hdone⟩ := refilled_finish_service s.env hl ho hs
        rw [if_pos hs]
        exact ⟨hatt, fun _ => hdone⟩
      · rw [if_neg hs]
        exact ⟨refilled_finish_quiet s.env hl ho hs, fun h => absurd h hs⟩

end Sys2Proof.Proofs.RepairDirectory
end

section
/-! SUPPORT. The repair links: the CRC (R131). First that a byte taken whole by the register is its bits taken one by one, then how
the CRC goes on byte by byte and which two bytes it gives. -/

namespace Sys2Proof.Proofs.RepairLinks

open Sys2Proof.Machine

/-! ### A byte taken whole and a byte taken bit by bit -/

/-- One bit of a byte into the CRC register, as R131 takes it: the generator is taken away when the bit shifted out differs
from bit `i` of the byte. -/
def crcSerialBit (b : Byte) (q : BitVec 16) (i : Nat) : BitVec 16 :=
  if q.msb != b.getLsbD i then (q <<< 1) ^^^ 0x1021#16 else q <<< 1

/-- A word added to the register beforehand stays apart from the register's own bits: it only moves up one place, and its top
bit decides with the register's own whether the generator is taken away. -/
theorem crcBit_xor (q x : BitVec 16) :
    crcBit (q ^^^ x) = (if q.msb != x.msb then (q <<< 1) ^^^ 0x1021#16 else q <<< 1) ^^^ (x <<< 1) := by
  unfold crcBit
  rw [BitVec.msb_xor, BitVec.shiftLeft_xor_distrib]
  split
  · ac_rfl
  · rfl

/-- With the bits of the byte from `i` down still waiting at the top of the register, bit `i` is at its most significant place. -/
theorem msb_waiting (b : Byte) {i : Nat} (hi : i < 8) : (b.zeroExtend 16 <<< (15 - i)).msb = b.getLsbD i := by
  have hplace : 15 - (15 - i) = i := by omega
  simp [BitVec.msb_eq_getLsbD_last, hplace]

/-- One bit of the register takes the topmost of the waiting bits and moves the others up one place. -/
theorem crcBit_waiting (b : Byte) (q : BitVec 16) {i : Nat} (hi : i < 8) :
    crcBit (q ^^^ (b.zeroExtend 16 <<< (15 - i))) = crcSerialBit b q i ^^^ (b.zeroExtend 16 <<< (16 - i)) := by
  have hmove : 15 - i + 1 = 16 - i := by omega
  rw [crcBit_xor, msb_waiting b hi, ← BitVec.shiftLeft_add, hmove]
  rfl

/-- The lowest `n` bits of a byte, waiting at the top of the register, are taken in `n` bits of it, the highest first. -/
theorem crcBit_iterate_waiting (b : Byte) {n : Nat} (hn : n ≤ 8) (q : BitVec 16) :
    crcBit^[n] (q ^^^ (b.zeroExtend 16 <<< (16 - n))) = (List.range n).reverse.foldl (crcSerialBit b) q := by
  induction n generalizing q with
  | zero =>
    have hgone : b.zeroExtend 16 <<< 16 = 0#16 := BitVec.shiftLeft_eq_zero le_rfl
    simp [hgone]
  | succ n ih =>
    have hplace : 16 - (n + 1) = 15 - n := by omega
    rw [Function.iterate_succ_apply, hplace, crcBit_waiting b q hn, ih (by omega), List.range_succ, List.reverse_concat,
      List.foldl_cons]

/-- R131: a byte taken whole is its eight bits taken one by one, the most significant first. -/
theorem crcByte_eq_foldl (r : BitVec 16) (b : Byte) :
    crcByte r b = [7, 6, 5, 4, 3, 2, 1, 0].foldl (crcSerialBit b) r := crcBit_iterate_waiting b le_rfl r

/-! ### The CRC of bytes one after the other, and its own two bytes -/

/-- The CRC goes on with a further byte from the register that the bytes before it left. -/
theorem crc16_concat (bs : List Byte) (b : Byte) : crc16 (bs ++ [b]) = crcByte (crc16 bs) b := List.foldl_concat ..

/-- A word of 16 bits in two bytes, the high byte first. -/
theorem be2_toNat (w : BitVec 16) : be2 w.toNat = [(w >>> 8).truncate 8, w.truncate 8] := by
  have hhigh : BitVec.ofNat 8 (w.toNat / 256) = (w >>> 8).truncate 8 := by
    apply BitVec.eq_of_toNat_eq
    simp [Nat.shiftRight_eq_div_pow]
  have hlow : BitVec.ofNat 8 w.toNat = w.truncate 8 := rfl
  rw [be2, hhigh, hlow]

/-- R130: the CRC stands behind the bytes it covers, the high byte first and not inverted. -/
theorem sealed_eq (bs : List Byte) : sealed bs = bs ++ [((crc16 bs) >>> 8).truncate 8, (crc16 bs).truncate 8] := by
  rw [sealed, crcBytes, be2_toNat]

/-- Settles O12: the register taken bit by bit, the two values printed, the CRC's two bytes, and what a frame and a device tag
take it over. -/
theorem crcIsTheOneOfTheManual : Obligations.CrcIsTheOneOfTheManual := by
  unfold Obligations.CrcIsTheOneOfTheManual
  refine ⟨?start, crc16_concat, crcByte_eq_foldl, ?digits, ?zero, sealed_eq, ?frame, ?deviceTag⟩
  case start => rfl
  case digits => decide +kernel
  case zero => decide
  case frame => exact fun _ => rfl
  case deviceTag => exact fun _ => rfl

end Sys2Proof.Proofs.RepairLinks
end

section
/-! SUPPORT. The properties that every step keeps, of the blocks alone: what a change of the blocks must respect to keep them, and
that every operation that makes no entry, admits no channel and fills no fence queue respects it. -/

namespace Sys2Proof.Proofs.Keeping

open Sys2Proof Sys2Proof.Machine Sys2Proof.Laws

/-! ### The properties, and the changes that respect them -/

/-- A link record within its capacities, and empty while the link is not UP (R127, R129, R133, R137, R141). -/
structure LinkOk (k : Link) : Prop where
  sendq : k.sendq.length ≤ 176
  inflight : k.inflight.length ≤ 8
  rx : k.rx.Pairwise fun f g => f.seq.getLsbD 0 ≠ g.seq.getLsbD 0
  empty : k.state ≠ .up → k.sendq = [] ∧ k.inflight = []

/-- What every step keeps of the blocks, but for the send overflows, which the end of a change closes; `n` is POWER_CEILING. -/
structure Good (n : Nat) (b : Body) : Prop where
  units : b.unitsInUse ≤ n
  asks : ∀ c : ChanId, b.chan[c].admission ≠ .none → b.chan[c].state = .test
  watch : WatchKept b
  keys : KeysDistinct b
  fence : ∀ f : Fin 8, b.fence[f].queue.length ≤ 32
  link : ∀ l : ChanId, LinkOk b.link[l]

/-- A channel's change that gives it no admission: it has none after it, or its admission and its state are as before. -/
def Calm (x y : Channel) : Prop := y.admission = .none ∨ (y.admission = x.admission ∧ y.state = x.state)

theorem Calm.refl (x : Channel) : Calm x x := .inr ⟨rfl, rfl⟩

theorem Calm.trans {x y z : Channel} (h : Calm x y) (h' : Calm y z) : Calm x z := by
  rcases h' with h' | ⟨ha, hs⟩
  · exact .inl h'
  · rcases h with h | ⟨ga, gs⟩
    · exact .inl (ha.trans h)
    · exact .inr ⟨ha.trans ga, hs.trans gs⟩

/-- A change of the blocks that makes no watch record, admits no channel, lengthens no fence queue and leaves every link in order. -/
structure Mild (b b' : Body) : Prop where
  watch : ∀ (i : WatchNo) (w : Watch), b'.watch[i] = some w → b.watch[i] = some w
  chan : ∀ c : ChanId, Calm b.chan[c] b'.chan[c]
  fence : ∀ f : Fin 8, b'.fence[f].queue.length ≤ b.fence[f].queue.length
  link : ∀ l : ChanId, LinkOk b.link[l] → LinkOk b'.link[l]

/-- A mild change that makes no entry. -/
structure Tame (b b' : Body) : Prop extends Mild b b' where
  dir : ∀ (e : EntryNo) (q : Live), b'.dir[e].live = some q → ∃ r, b.dir[e].live = some r ∧ r.key = q.key

theorem Mild.trans {b b' b'' : Body} (h : Mild b b') (h' : Mild b' b'') : Mild b b'' where
  watch i w hw := h.watch i w (h'.watch i w hw)
  chan c := (h.chan c).trans (h'.chan c)
  fence f := (h'.fence f).trans (h.fence f)
  link l hl := h'.link l (h.link l hl)

theorem Tame.refl (b : Body) : Tame b b :=
  ⟨⟨fun _ _ h => h, fun _ => Calm.refl _, fun _ => le_rfl, fun _ h => h⟩, fun _ r h => ⟨r, h, rfl⟩⟩

theorem Tame.trans {b b' b'' : Body} (h : Tame b b') (h' : Tame b' b'') : Tame b b'' where
  toMild := h.toMild.trans h'.toMild
  dir e q hq := by
    obtain ⟨r, hr, hk⟩ := h'.dir e q hq
    obtain ⟨x, hx, hk'⟩ := h.dir e r hr
    exact ⟨x, hx, hk'.trans hk⟩

/-- A channel that holds admission after a calm change held it before. -/
theorem Calm.isHeld {x y : Channel} (h : Calm x y) (hy : y.admission.isHeld = true) : x.admission.isHeld = true := by
  rcases h with h | ⟨h, -⟩
  · rw [h] at hy
    cases hy
  · rwa [← h]

/-- What one channel holds of the power (R101). -/
def heldWeight (b : Body) (c : ChanId) : Nat := if b.chan[c].admission.isHeld then weight c else 0

theorem unitsInUse_eq (b : Body) : b.unitsInUse = (allChans.map (heldWeight b)).sum := rfl

theorem heldWeight_calm {b b' : Body} {c : ChanId} (h : Calm b.chan[c] b'.chan[c]) : heldWeight b' c ≤ heldWeight b c := by
  unfold heldWeight
  split
  · rename_i hy
    rw [if_pos (h.isHeld hy)]
  · exact Nat.zero_le _

/-- A change of one term of a sum adds that term at most. -/
theorem sum_map_le_add {α : Type} {g g' : α → Nat} (c : α) (h : ∀ d, d ≠ c → g' d ≤ g d) :
    ∀ l : List α, l.Nodup → (l.map g').sum ≤ (l.map g).sum + g' c
  | [], _ => Nat.zero_le _
  | a :: l, hn => by
    obtain ⟨ha, hn'⟩ := List.nodup_cons.1 hn
    simp only [List.map_cons, List.sum_cons]
    by_cases hac : a = c
    · subst hac
      have : (l.map g').sum ≤ (l.map g).sum := List.sum_le_sum fun d hd => h d (ne_of_mem_of_not_mem hd ha)
      omega
    · have := sum_map_le_add c h l hn'
      have := h a hac
      omega

theorem WatchKept.within {b b' : Body} (hb : WatchKept b)
    (h : ∀ (i : WatchNo) (w : Watch), b'.watch[i] = some w → b.watch[i] = some w) : WatchKept b' :=
  ⟨fun i w hw => hb.1 i w (h i w hw), fun i j w v hw hv => hb.2 i j w v (h i w hw) (h j v hv)⟩

theorem KeysDistinct.within {b b' : Body} (hb : KeysDistinct b)
    (h : ∀ (e : EntryNo) (q : Live), b'.dir[e].live = some q → ∃ r, b.dir[e].live = some r ∧ r.key = q.key) :
    KeysDistinct b' := by
  refine ⟨fun i j r q hr hq hk => ?_, fun i j r q hr hq h1 h2 h3 => ?_⟩ <;> obtain ⟨x, hx, hxk⟩ := h i r hr <;>
    obtain ⟨y, hy, hyk⟩ := h j q hq
  · exact hb.1 i j x y hx hy (hxk.trans (hk.trans hyk.symm))
  · exact hb.2 i j x y hx hy (by rw [hxk]; exact h1) (by rw [hxk, hyk]; exact h2) (by rw [hxk, hyk]; exact h3)

/-- A mild change keeps all of it, where the keys of its entries are distinct. -/
theorem Good.mild {n : Nat} {b b' : Body} (hb : Good n b) (h : Mild b b') (hk : KeysDistinct b') : Good n b' where
  units := (List.sum_le_sum fun c _ => heldWeight_calm (h.chan c)).trans hb.units
  asks c hc := by
    rcases h.chan c with hn | ⟨ha, hs⟩
    · exact absurd hn hc
    · rw [hs]
      exact hb.asks c (ha ▸ hc)
  watch := WatchKept.within hb.watch h.watch
  keys := hk
  fence f := (h.fence f).trans (hb.fence f)
  link l := h.link l (hb.link l)

/-- A tame change keeps all of it. -/
theorem Good.tame {n : Nat} {b b' : Body} (hb : Good n b) (h : Tame b b') : Good n b' :=
  hb.mild h.toMild (KeysDistinct.within hb.keys h.dir)

/-- A fold of tame changes is tame. -/
theorem tame_foldl {α : Type} {f : Body → α → Body} (h : ∀ b a, Tame b (f b a)) (as : List α) (b : Body) :
    Tame b (as.foldl f b) := foldl_keeps (P := Tame b) (fun x a hx => hx.trans (h x a)) as b (Tame.refl b)

/-! ### The updates -/

theorem tame_modChan {b : Body} {c : ChanId} {f : Channel → Channel} (h : Calm b.chan[c] (f b.chan[c])) :
    Tame b (b.modChan c f) where
  dir _ r hr := ⟨r, hr, rfl⟩
  watch _ _ hw := hw
  chan d := by
    by_cases hd : c = d
    · subst hd
      rwa [modChan_same]
    · rw [modChan_other b f hd]
      exact Calm.refl _
  fence _ := le_rfl
  link _ hl := hl

/-- A channel record written with no admission. -/
theorem tame_modChan_none {b : Body} {c : ChanId} {f : Channel → Channel} (h : ∀ x, (f x).admission = .none) :
    Tame b (b.modChan c f) := tame_modChan (.inl (h _))

/-- A channel record written with its admission and its state as they were. -/
theorem tame_modChan_same {b : Body} {c : ChanId} {f : Channel → Channel}
    (h : ∀ x, (f x).admission = x.admission ∧ (f x).state = x.state) : Tame b (b.modChan c f) := tame_modChan (.inr (h _))

theorem tame_modLink {b : Body} {c : ChanId} {f : Link → Link} (h : LinkOk b.link[c] → LinkOk (f b.link[c])) :
    Tame b (b.modLink c f) where
  dir _ r hr := ⟨r, hr, rfl⟩
  watch _ _ hw := hw
  chan _ := Calm.refl _
  fence _ := le_rfl
  link d := by
    by_cases hd : c = d
    · subst hd
      rwa [modLink_same]
    · rw [modLink_other b f hd]
      exact id

theorem tame_modInv (b : Body) (c : ChanId) (f : Inventory → Inventory) : Tame b (b.modInv c f) :=
  ⟨⟨fun _ _ h => h, fun _ => Calm.refl _, fun _ => le_rfl, fun _ h => h⟩, fun _ r h => ⟨r, h, rfl⟩⟩

theorem tame_inv (b : Body) (v : Vector (Option Inventory) 12) : Tame b { b with inv := v } :=
  ⟨⟨fun _ _ h => h, fun _ => Calm.refl _, fun _ => le_rfl, fun _ h => h⟩, fun _ r h => ⟨r, h, rfl⟩⟩

theorem tame_att (b : Body) (a : Vector CondRec 10) : Tame b { b with att := a } :=
  ⟨⟨fun _ _ h => h, fun _ => Calm.refl _, fun _ => le_rfl, fun _ h => h⟩, fun _ r h => ⟨r, h, rfl⟩⟩

theorem tame_raise (b : Body) (k : Condition) (v : CondValue) : Tame b (b.raise k v) := tame_att b _

theorem tame_refreshLevels (b : Body) (env : Env) : Tame b (b.refreshLevels env) := tame_att b _

theorem tame_modFence_of {b : Body} {c : ChanId} {f : FenceUnit → FenceUnit}
    (h : (f (b.fenceOf c)).queue.length ≤ (b.fenceOf c).queue.length) : Tame b (b.modFence c f) where
  dir e r hr := ⟨r, by rwa [modFence_dir] at hr, rfl⟩
  watch i w hw := by rwa [modFence_watch] at hw
  chan d := by rw [modFence_chan]; exact Calm.refl _
  fence k := by
    rw [modFence_fence]
    split
    · rename_i hk
      rwa [← fenceOf_buffer b hk]
    · exact le_rfl
  link l hl := by rwa [modFence_link]

theorem tame_modFence {b : Body} (c : ChanId) {f : FenceUnit → FenceUnit} (h : ∀ u, (f u).queue.length ≤ u.queue.length) :
    Tame b (b.modFence c f) := tame_modFence_of (h _)

/-- Writing an entry whose key, if it has one, the entry had before. -/
theorem tame_changeEntry {b : Body} {e : EntryNo} {l : Option Live}
    (h : ∀ q, l = some q → ∃ r, b.dir[e].live = some r ∧ r.key = q.key) : Tame b (b.changeEntry e l) where
  dir d q hq := by
    by_cases hd : e = d
    · subst hd
      rw [changeEntry_same] at hq
      exact h q hq
    · rw [changeEntry_other b l hd] at hq
      exact ⟨q, hq, rfl⟩
  watch _ _ hw := hw
  chan _ := Calm.refl _
  fence _ := le_rfl
  link _ hl := hl

theorem tame_changeEntry_none (b : Body) (e : EntryNo) : Tame b (b.changeEntry e none) := tame_changeEntry fun _ h => nomatch h

theorem tame_changeEntry_some {b : Body} {e : EntryNo} {r q : Live} (h : b.dir[e].live = some r) (hk : r.key = q.key) :
    Tame b (b.changeEntry e (some q)) := tame_changeEntry fun _ hq => ⟨r, h, Option.some.inj hq ▸ hk⟩

theorem tame_setEntryState (b : Body) (e : EntryNo) (st : EntryState) : Tame b (b.setEntryState e st) := by
  unfold Body.setEntryState
  split
  · exact Tame.refl b
  · rename_i r h
    exact tame_changeEntry_some h rfl

theorem tame_dropWatch (b : Body) (p : Watch → Bool) : Tame b (b.dropWatch p) where
  dir _ r hr := ⟨r, hr, rfl⟩
  watch i w hw := by
    have hm : (b.dropWatch p).watch[i] = b.watch[i].filter fun w => !p w := by simp [Body.dropWatch]
    rw [hm, Option.filter_eq_some_iff] at hw
    exact hw.1
  chan _ := Calm.refl _
  fence _ := le_rfl
  link _ hl := hl

theorem tame_unwatch (b : Body) (k : Key) : Tame b (b.unwatch k) := by
  unfold Body.unwatch
  split
  · exact Tame.refl b
  · exact tame_dropWatch b _

theorem tame_forgetRepaired (b : Body) (k : Key) : Tame b (b.forgetRepaired k) := by
  unfold Body.forgetRepaired
  split
  · exact Tame.refl b
  · exact tame_modChan_same fun _ => ⟨rfl, rfl⟩

/-! ### Sending -/

/-- R137: a frame is offered within the capacity of the send queue, and to a link in UP alone. -/
theorem LinkOk.offer {k : Link} (h : LinkOk k) (q : QFrame) : LinkOk (k.offer q) := by
  unfold Link.offer
  split
  · rename_i hu
    split
    · rename_i hl
      refine ⟨?_, h.inflight, h.rx, fun hs => absurd hu.1 hs⟩
      rw [List.length_append]
      exact hl
    · exact ⟨h.sendq, h.inflight, h.rx, h.empty⟩
  · exact h

theorem tame_offer (b : Body) (c : ChanId) (m : Msg) (n : Note) : Tame b (b.offer c m n) :=
  tame_modLink fun h => h.offer ⟨m, n⟩

theorem LinkOk.abandonReleases {k : Link} (h : LinkOk k) : LinkOk k.abandonReleases where
  sendq := by simpa [Link.abandonReleases] using h.sendq
  inflight := by simpa [Link.abandonReleases] using h.inflight
  rx := h.rx
  empty hs := by simpa [Link.abandonReleases] using h.empty hs

/-- R138, R141: a head joins the in-flight list where it holds fewer than 8 frames. -/
theorem LinkOk.advance {k : Link} (h : LinkOk k) (t : Nat) : LinkOk (k.advance t) := by
  unfold Link.advance
  split
  · rename_i q qs hu hlane hq
    split
    · exact h
    · rename_i hw
      refine ⟨?_, ?_, h.rx, fun hs => absurd hu hs⟩
      · have := h.sendq
        rw [hq] at this
        exact Nat.le_of_succ_le this
      · dsimp only
        split
        · rename_i hm
          have hlt : k.inflight.length < 8 := by
            simp only [Link.headWaits, hm, Config.inflightMax, Bool.true_and, Bool.or_eq_true, not_or] at hw
            exact Nat.not_le.1 fun hle => hw.1 (decide_eq_true hle)
          rw [List.length_append]
          exact hlt
        · exact h.inflight
  · exact h

theorem LinkOk.drop {k : Link} (l : ChanId) (count : Counters → Counters) : LinkOk (k.drop l count) where
  sendq := Nat.zero_le _
  inflight := Nat.zero_le _
  rx := List.Pairwise.nil
  empty _ := ⟨rfl, rfl⟩

/-! ### Entries -/

theorem tame_freeEntry (b : Body) (e : EntryNo) : Tame b (b.freeEntry e) := by
  unfold Body.freeEntry
  split
  · exact Tame.refl b
  · exact ((((tame_modInv b _ _).trans (tame_modFence _ fun u => List.length_filter_le _ _)).trans
      (tame_forgetRepaired _ _)).trans (tame_changeEntry_none _ e))

theorem tame_forgetEntry (b : Body) (e : EntryNo) : Tame b (b.forgetEntry e) := tame_changeEntry_none b e

theorem tame_activate (b : Body) (e : EntryNo) : Tame b (b.activate e) := by
  unfold Body.activate
  split
  · exact Tame.refl b
  · exact (tame_setEntryState b e _).trans (tame_unwatch _ _)

theorem tame_sendInstall (b : Body) (e : EntryNo) (resync : Bool) : Tame b (b.sendInstall e resync) := by
  unfold Body.sendInstall
  split
  · exact Tame.refl b
  · split
    · exact Tame.refl b
    · exact (tame_setEntryState b e _).trans (tame_offer _ _ _ _)

theorem tame_resendInstall (b : Body) (e : EntryNo) : Tame b (b.resendInstall e) := by
  unfold Body.resendInstall
  split
  · exact Tame.refl b
  · split
    · exact Tame.refl b
    · exact tame_offer _ _ _ _

theorem tame_sendRemove (b : Body) (e : EntryNo) : Tame b (b.sendRemove e) := by
  unfold Body.sendRemove
  split
  · exact Tame.refl b
  · exact (tame_setEntryState b e _).trans (tame_offer _ _ _ _)

theorem tame_retarget {env : Env} {b b1 : Body} {e : EntryNo} {round : Option Nat} (h : b.retarget env e round = some b1) :
    Tame b b1 := by
  unfold Body.retarget at h
  split at h
  · cases h
  · rename_i r hr
    split at h
    · split at h
      · cases h
      · obtain rfl := Option.some.inj h
        refine ((tame_modInv b _ _).trans (tame_forgetRepaired _ _)).trans (tame_changeEntry_some (r := r) ?_ rfl)
        rwa [forgetRepaired_dir]
    · cases h

theorem tame_convert (b : Body) (e : EntryNo) (round : Nat) : Tame b (b.convert e round) := by
  unfold Body.convert
  split
  · exact Tame.refl b
  · rename_i r hr
    split
    · refine ((tame_modInv b _ _).trans (tame_forgetRepaired _ _)).trans (tame_changeEntry_some (r := r) ?_ rfl)
      rwa [forgetRepaired_dir]
    · exact Tame.refl b

theorem tame_settleEntry (b : Body) (e : EntryNo) : Tame b (b.settleEntry e) := by
  unfold Body.settleEntry
  split
  · exact Tame.refl b
  · split
    · exact tame_setEntryState b e _
    · exact tame_setEntryState b e _
    · exact tame_freeEntry b e
    · exact tame_freeEntry b e
    · exact tame_freeEntry b e
    all_goals exact Tame.refl b

theorem tame_settle (b : Body) (c : ChanId) : Tame b (b.settle c) :=
  (tame_foldl tame_settleEntry _ b).trans (tame_modFence c fun _ => Nat.zero_le _)

theorem tame_countRepair (b : Body) (c : ChanId) : Tame b (b.countRepair c) := tame_modChan_same fun _ => ⟨rfl, rfl⟩

theorem tame_addRepaired (b : Body) (c : ChanId) (k : RowKey) : Tame b (b.addRepaired c k) := by
  refine tame_modChan ?_
  split
  · exact Calm.refl _
  · exact .inr ⟨rfl, rfl⟩

/-! ### Runs that are left, begun and carried on -/

theorem tame_liftFence (b : Body) (c : ChanId) : Tame b (b.liftFence c) := by
  unfold Body.liftFence
  split
  · exact Tame.refl b
  · exact (tame_offer b c _ _).trans (tame_modFence c fun _ => le_rfl)

theorem tame_stopChannel (b : Body) (c : ChanId) : Tame b (b.stopChannel c) :=
  (((tame_offer b c _ _).trans (tame_modLink LinkOk.abandonReleases)).trans (tame_modChan_none fun _ => rfl)).trans (tame_settle _ c)

theorem tame_sendDiscover (env : Env) (b : Body) (c : ChanId) : Tame b (b.sendDiscover env c) :=
  (tame_offer b c _ _).trans (tame_modChan_same fun _ => ⟨rfl, rfl⟩)

theorem tame_enterDiscover (env : Env) (b : Body) (c : ChanId) : Tame b (b.enterDiscover env c) := by
  have h := (((tame_settle b c).trans (tame_modInv _ c fun v => { v with tallies := v.tallies.map fun _ => 0 })).trans
    (tame_modLink (c := c) LinkOk.abandonReleases))
  unfold Body.enterDiscover
  dsimp only
  split
  · exact (h.trans (tame_modChan_none fun _ => rfl)).trans (tame_sendDiscover env _ c)
  · exact (h.trans (tame_modChan_none fun _ => rfl)).trans (tame_modChan_same fun _ => ⟨rfl, rfl⟩)

theorem tame_enterReady (b : Body) (c : ChanId) : Tame b (b.enterReady c) :=
  (tame_modChan_none fun _ => rfl).trans (tame_raise _ _ _)

theorem tame_enterReleasing (env : Env) (b : Body) (c : ChanId) : Tame b (b.enterReleasing env c) := by
  unfold Body.enterReleasing
  split
  · exact (tame_offer b c _ _).trans (tame_modChan_same fun _ => ⟨rfl, rfl⟩)
  · exact tame_enterReady b c

theorem tame_runInstalls (c : ChanId) : ∀ (es : List EntryNo) (b : Body), Tame b (Body.runInstalls c es b)
  | [], _ => tame_modChan_same fun _ => ⟨rfl, rfl⟩
  | e :: es, b => by
    unfold Body.runInstalls
    split
    · exact tame_modChan_same fun _ => ⟨rfl, rfl⟩
    · exact (tame_sendInstall b e false).trans (tame_runInstalls c es _)

theorem tame_continueInstalls (b : Body) (c : ChanId) : Tame b (b.continueInstalls c) := by
  unfold Body.continueInstalls
  split
  · exact Tame.refl b
  · exact tame_runInstalls c _ b

theorem tame_beginInstalls (b : Body) (c : ChanId) (ph : Phase) : Tame b (b.beginInstalls c ph) := by
  refine Tame.trans ?_ (tame_continueInstalls _ c)
  exact tame_modChan_same fun _ => ⟨rfl, rfl⟩

theorem tame_await (b : Body) (c : ChanId) : Tame b (b.await c) := tame_modChan_same fun _ => ⟨rfl, rfl⟩

theorem tame_answered (b : Body) (c : ChanId) : Tame b (b.answered c) := tame_modChan_same fun _ => ⟨rfl, rfl⟩

theorem tame_walkFrame {b b1 : Body} {e : EntryNo} (h : b.walkFrame e = some b1) : Tame b b1 := by
  unfold Body.walkFrame at h
  split at h
  · cases h
  · split at h
    · exact Option.some.inj h ▸ tame_sendInstall b e true
    · exact Option.some.inj h ▸ tame_resendInstall b e
    · exact Option.some.inj h ▸ tame_resendInstall b e
    all_goals cases h

theorem tame_walkEntries (c : ChanId) : ∀ (es : List EntryNo) (b : Body), Tame b (Body.walkEntries c es b)
  | [], _ => tame_modChan_same fun _ => ⟨rfl, rfl⟩
  | e :: es, b => by
    unfold Body.walkEntries
    split
    · exact tame_walkEntries c es b
    · rename_i b1 h
      split
      · exact tame_modChan_same fun _ => ⟨rfl, rfl⟩
      · exact ((tame_walkFrame h).trans (tame_await b1 c)).trans (tame_walkEntries c es _)

theorem tame_continueWalk (b : Body) (c : ChanId) : Tame b (b.continueWalk c) := by
  unfold Body.continueWalk
  split
  · exact Tame.refl b
  · split
    · exact tame_walkEntries c _ b
    · exact Tame.refl b

theorem tame_enterResync (b : Body) (c : ChanId) : Tame b (b.enterResync c) :=
  ((tame_modChan_none fun _ => rfl).trans (tame_offer _ c _ _)).trans (tame_continueWalk _ c)

theorem tame_resyncCheck (b : Body) (c : ChanId) : Tame b (b.resyncCheck c) := by
  unfold Body.resyncCheck
  split
  · exact (tame_offer b c _ _).trans (tame_modChan_same fun _ => ⟨rfl, rfl⟩)
  · exact Tame.refl b

theorem tame_continueRuns (b : Body) (c : ChanId) : Tame b (b.continueRuns c) := by
  unfold Body.continueRuns
  split
  · exact tame_continueInstalls b c
  · exact (tame_continueWalk b c).trans (tame_resyncCheck _ c)
  all_goals exact Tame.refl b

theorem tame_advanceLane (env : Env) (b : Body) (c : ChanId) : Tame b (b.advanceLane env c) :=
  (tame_modLink fun h => h.advance _).trans (tame_continueRuns _ c)

/-- R109: a head that is served leaves its queue. -/
theorem tame_serveHead (env : Env) (b : Body) (c : ChanId) : Tame b (b.serveHead env c) := by
  unfold Body.serveHead
  split
  · rename_i e es _ _ hq
    have hle : es.length ≤ (b.fenceOf c).queue.length := by
      rw [hq]
      exact Nat.le_succ _
    split
    · exact tame_modFence_of hle
    · exact (((tame_modFence_of hle).trans (tame_modLink fun h => ⟨h.sendq, h.inflight, h.rx, h.empty⟩)).trans
        (tame_offer _ c _ _)).trans (tame_setEntryState _ e _)
  · exact Tame.refl b

/-- Raising the same condition for each key of a list. -/
theorem tame_raises (k : Condition) (ks : List Key) (b : Body) : Tame b (ks.foldl (fun x y => x.raise k (.key y)) b) :=
  tame_foldl (fun x y => tame_raise x k (.key y)) ks b

theorem tame_enterLost (b : Body) (c : ChanId) : Tame b (b.enterLost c) := by
  unfold Body.enterLost
  dsimp only
  refine Tame.trans ?_ (tame_modChan_none fun _ => rfl)
  refine Tame.trans ?_ (tame_raise _ _ _)
  refine Tame.trans ?_ (tame_raises _ _ _)
  refine Tame.trans ?_ (tame_settle _ c)
  exact tame_modFence c fun _ => le_rfl

end Sys2Proof.Proofs.Keeping
end

section
/-! SUPPORT. The properties that every step keeps: the operations that admit channels, make entries or fill fence queues keep them,
and so does all that is made of these. -/

namespace Sys2Proof.Proofs.Keeping

open Sys2Proof Sys2Proof.Machine Sys2Proof.Laws

/-- The properties kept, under the POWER_CEILING in force. -/
abbrev GoodIn (env : Env) (b : Body) : Prop := Good env.items.powerCeiling b

/-! ### Power admission -/

/-- A channel record written so that the units still fit, and with an admission in TEST alone. -/
theorem good_modChan {n : Nat} {b : Body} {c : ChanId} {f : Channel → Channel} (hb : Good n b)
    (hu : (b.modChan c f).unitsInUse ≤ n) (ht : (f b.chan[c]).admission ≠ .none → (f b.chan[c]).state = .test) :
    Good n (b.modChan c f) where
  units := hu
  asks d hd := by
    by_cases hc : c = d
    · subst hc
      rw [modChan_same] at hd ⊢
      exact ht hd
    · rw [modChan_other b f hc] at hd ⊢
      exact hb.asks d hd
  watch := hb.watch
  keys := hb.keys
  fence := hb.fence
  link := hb.link

/-- Writing one channel's record adds what that channel holds after it at most. -/
theorem unitsInUse_modChan (b : Body) (c : ChanId) (f : Channel → Channel) :
    (b.modChan c f).unitsInUse ≤ b.unitsInUse + heldWeight (b.modChan c f) c := by
  rw [unitsInUse_eq, unitsInUse_eq]
  refine sum_map_le_add c (fun d hd => ?_) allChans (List.nodup_finRange 12)
  exact heldWeight_calm (by rw [modChan_other b f (Ne.symm hd)]; exact Calm.refl _)

theorem heldWeight_le (b : Body) (c : ChanId) : heldWeight b c ≤ weight c := by
  unfold heldWeight
  split
  · exact le_rfl
  · exact Nat.zero_le _

/-- R103: a step that starts where its weight fits keeps the units within the ceiling. -/
theorem good_startStep {env : Env} {b : Body} {c : ChanId} {a : Ask} (hb : GoodIn env b)
    (hf : b.unitsInUse + weight c ≤ env.items.powerCeiling) (ht : b.chan[c].state = .test) : GoodIn env (b.startStep env c a) := by
  have hstart : ∀ f : Channel → Channel, (∀ x, (f x).state = x.state) → GoodIn env (b.modChan c f) := fun f hs =>
    good_modChan hb ((unitsInUse_modChan b c f).trans ((Nat.add_le_add_left (heldWeight_le _ c) _).trans hf))
      fun _ => (hs _).trans ht
  unfold Body.startStep
  dsimp only
  split
  · exact hstart _ fun _ => rfl
  · refine Good.tame ?_ (tame_offer _ c _ _)
    exact hstart _ fun _ => rfl

theorem good_visit {env : Env} {b : Body} (hb : GoodIn env b) (c : ChanId) : GoodIn env (b.visit env c) := by
  unfold Body.visit
  split
  · rename_i a ha
    split
    · rename_i hf
      simp only [Body.fits, Bool.and_eq_true, decide_eq_true_eq] at hf
      exact good_startStep hb hf.1 (hb.asks c (by rw [ha]; exact nofun))
    · exact hb
  · exact hb
  · exact hb

/-- R103: the arbiter's scan. -/
theorem good_scan {env : Env} {b : Body} (hb : GoodIn env b) : GoodIn env (b.scan env) :=
  foldl_keeps (P := GoodIn env) (fun _ c hx => good_visit hx c) allChans b hb

/-- R102: a channel in TEST becomes WAITING, and the arbiter scans. -/
theorem good_ask {env : Env} {b : Body} {c : ChanId} (hb : GoodIn env b) (ht : b.chan[c].state = .test) (k : StepKind)
    (sp : Spread) : GoodIn env (b.ask env c k sp) := by
  refine good_scan (good_modChan hb ?_ fun _ => ht)
  refine (unitsInUse_modChan b c _).trans ?_
  have hnone : heldWeight (b.modChan c fun ch => { ch with admission := .waiting ⟨k, sp⟩ }) c = 0 := by
    unfold heldWeight
    rw [modChan_same]
    rfl
  rw [hnone]
  exact hb.units

/-- R68: the step ends and its units return. -/
theorem good_endStep {env : Env} {b : Body} (hb : GoodIn env b) (c : ChanId) : GoodIn env (b.endStep env c) :=
  good_scan (hb.tame (tame_modChan_none fun _ => rfl))

/-! ### Channels that fail or are stopped, and links that are lost -/

theorem good_failChannel {env : Env} {b : Body} (hb : GoodIn env b) (c : ChanId) (cause : Cause) :
    GoodIn env (b.failChannel env c cause) := by
  unfold Body.failChannel
  split
  · exact hb
  · dsimp only
    have hhalt : GoodIn env (if b.chan[c].state = .test then b.offer c .halt .none else b) := by
      split
      · exact hb.tame (tame_offer b c _ _)
      · exact hb
    have hquiet := hhalt.tame ((tame_liftFence _ c).trans
      (tame_modChan_none (c := c) (f := fun ch => { ch.quiet with state := .failed, cause := some cause }) fun _ => rfl))
    have hraised := hquiet.tame ((tame_settle _ c).trans (tame_raise _ .channelFailed (.failed c cause)))
    split
    · exact good_scan hraised
    · exact hraised

theorem good_stopChannels {env : Env} {b : Body} (hb : GoodIn env b) (cs : List ChanId) : GoodIn env (b.stopChannels env cs) := by
  have hstop := hb.tame (tame_foldl tame_stopChannel (b.inTest cs) b)
  unfold Body.stopChannels
  dsimp only
  split
  · exact good_scan hstop
  · exact hstop

/-- Only a channel in TEST has an admission to lose. -/
theorem Good.no_admission {n : Nat} {b : Body} (hb : Good n b) {c : ChanId} (h : b.chan[c].state ≠ .test) :
    b.chan[c].admission = .none := by
  by_contra ha
  exact h (hb.asks c ha)

/-- A channel outside TEST moves to another state. -/
theorem good_setState {n : Nat} {b : Body} (hb : Good n b) {c : ChanId} (h : b.chan[c].state ≠ .test) (st : ChanState) :
    Good n (b.modChan c fun ch => { ch with state := st }) :=
  hb.tame (tame_modChan (.inl (hb.no_admission h)))

theorem good_linkLost {env : Env} {b : Body} (hb : GoodIn env b) (c : ChanId) : GoodIn env (b.linkLost env c) := by
  unfold Body.linkLost
  split
  · exact good_failChannel hb c _
  · exact good_failChannel hb c _
  · rename_i h
    exact good_setState hb (by rw [h]; exact nofun) .down
  · exact hb.tame (tame_enterLost b c)
  · exact hb.tame (tame_enterLost b c)
  all_goals exact hb

theorem good_linkDown {env : Env} {b : Body} (hb : GoodIn env b) (c : ChanId) (count : Counters → Counters) :
    GoodIn env (b.linkDown env c count) :=
  good_linkLost (hb.tame (tame_modLink fun _ => LinkOk.drop c count)) c

theorem good_closeOverflows {env : Env} {b : Body} (hb : GoodIn env b) (n : Nat) : GoodIn env (b.closeOverflows env n) :=
  closeOverflows_keeps (P := GoodIn env) env (fun _ c hx _ => good_linkDown hx c _) n b hb

/-- The end of a change. -/
theorem good_finish {env : Env} {b : Body} (hb : GoodIn env b) : GoodIn env (b.finish env) :=
  (good_closeOverflows hb 12).tame (tame_refreshLevels _ env)

theorem good_linkReachedUp {env : Env} {b : Body} (hb : GoodIn env b) (c : ChanId) : GoodIn env (b.linkReachedUp env c) := by
  unfold Body.linkReachedUp
  split
  · rename_i h
    exact good_setState hb (by rw [h]; exact nofun) .idle
  · split
    · exact hb.tame (tame_sendDiscover env b c)
    · exact hb
  · exact hb.tame (tame_enterResync b c)
  all_goals exact hb

/-! ### The phases of a run -/

theorem sendInstall_chan (b : Body) (e : EntryNo) (resync : Bool) : (b.sendInstall e resync).chan = b.chan := by
  unfold Body.sendInstall
  split
  · rfl
  · split
    · rfl
    · unfold Body.setEntryState
      split <;> rfl

/-- A run of INSTALL frames leaves every channel in its state. -/
theorem runInstalls_state (c d : ChanId) : ∀ (es : List EntryNo) (b : Body),
    (Body.runInstalls c es b).chan[d].state = b.chan[d].state
  | [], b => ((passes_modChan b c _ rfl).2 d).1
  | e :: es, b => by
    unfold Body.runInstalls
    split
    · exact ((passes_modChan b c _ rfl).2 d).1
    · rw [runInstalls_state c d es, sendInstall_chan]

theorem beginInstalls_state (b : Body) (c d : ChanId) (ph : Phase) : (b.beginInstalls c ph).chan[d].state = b.chan[d].state := by
  have hbegin := ((passes_modChan b c (fun ch => { ch with phase := some ph, planPos := none, installPos := some 0 }) rfl).2 d).1
  unfold Body.beginInstalls Body.continueInstalls
  split
  · exact hbegin
  · rw [runInstalls_state, hbegin]

section Phases

variable {env : Env} {b : Body} {c : ChanId}

theorem good_enterVerify (hb : GoodIn env b) (ht : b.chan[c].state = .test) : GoodIn env (b.enterVerify env c) := by
  unfold Body.enterVerify
  dsimp only
  have hround := hb.tame (tame_modChan_same (c := c) (f := fun ch =>
    { ch with phase := some .verify, verifyRound := b.chan[c].verifyRound + 1, roundFailed := false }) fun _ => ⟨rfl, rfl⟩)
  split
  · exact hround.tame (tame_enterReleasing env _ c)
  · exact good_ask hround (by rw [modChan_same]; exact ht) _ _

theorem good_afterRepairInstall (hb : GoodIn env b) (ht : b.chan[c].state = .test) : GoodIn env (b.afterRepairInstall env c) := by
  unfold Body.afterRepairInstall
  split
  · exact good_enterVerify hb ht
  · exact hb.tame (tame_enterReleasing env b c)

theorem good_enterRepairInstall (hb : GoodIn env b) (ht : b.chan[c].state = .test) : GoodIn env (b.enterRepairInstall env c) := by
  unfold Body.enterRepairInstall
  dsimp only
  have hbegin := hb.tame (tame_beginInstalls b c .repairinstall)
  split
  · exact hbegin
  · exact good_afterRepairInstall hbegin (by rw [beginInstalls_state]; exact ht)

/-- R74: the walk of the plan, over any list of slots. -/
theorem good_walkPlan (ns : List SlotNo) (hb : GoodIn env b) (ht : b.chan[c].state = .test) :
    GoodIn env (Body.walkPlan env c ns b) := by
  induction ns generalizing b with
  | nil => exact good_enterRepairInstall hb ht
  | cons n ns ih =>
    have hpass : ∀ f : Channel → Channel, (∀ x, (f x).admission = x.admission ∧ (f x).state = x.state) →
        GoodIn env (b.modChan c f) ∧ (b.modChan c f).chan[c].state = .test := fun f hf =>
      ⟨hb.tame (tame_modChan_same hf), by rw [modChan_same, (hf _).2]; exact ht⟩
    obtain ⟨hgood, htest⟩ := hpass (fun ch => { ch with planPos := some n }) fun _ => ⟨rfl, rfl⟩
    unfold Body.walkPlan
    dsimp only
    split
    · exact ih hgood htest
    · split
      · exact ih hgood htest
      · split
        · rw [modChan_modChan]
          obtain ⟨hgood', htest'⟩ := hpass (fun ch => { ch with planPos := some n, skipped := ch.skipped + 1 }) fun _ => ⟨rfl, rfl⟩
          exact ih hgood' htest'
        · exact good_ask hgood htest _ _

theorem good_enterMain (hb : GoodIn env b) (ht : b.chan[c].state = .test) : GoodIn env (b.enterMain env c) :=
  good_walkPlan _ (hb.tame (tame_modChan_same fun _ => ⟨rfl, rfl⟩)) (by rw [modChan_same]; exact ht)

theorem good_enterSeedInstall (hb : GoodIn env b) (ht : b.chan[c].state = .test) : GoodIn env (b.enterSeedInstall env c) := by
  unfold Body.enterSeedInstall
  dsimp only
  have hbegin := hb.tame (tame_beginInstalls b c .seedinstall)
  split
  · exact hbegin
  · exact good_enterMain hbegin (by rw [beginInstalls_state]; exact ht)

theorem good_enterPoolcheck (hb : GoodIn env b) (ht : b.chan[c].state = .test) : GoodIn env (b.enterPoolcheck env c) := by
  unfold Body.enterPoolcheck
  dsimp only
  have hphase := hb.tame (tame_modChan_same (c := c) (f := fun ch => { ch with phase := some .poolcheck }) fun _ => ⟨rfl, rfl⟩)
  have htest : (b.modChan c fun ch => { ch with phase := some .poolcheck }).chan[c].state = .test := by
    rw [modChan_same]
    exact ht
  split
  · exact good_enterSeedInstall hphase htest
  · exact good_ask hphase htest _ _

theorem good_checkInstallPhase (hb : GoodIn env b) (c : ChanId) : GoodIn env (b.checkInstallPhase env c) := by
  unfold Body.checkInstallPhase
  split
  · rename_i h
    have hend := hb.tame (tame_modChan_same (c := c) (f := fun ch => { ch with installPos := none }) fun _ => ⟨rfl, rfl⟩)
    have htest : (b.modChan c fun ch => { ch with installPos := none }).chan[c].state = .test := by
      rw [modChan_same]
      exact h.1
    dsimp only
    split
    · exact good_enterMain hend htest
    · exact good_afterRepairInstall hend htest
    · exact hb
  · exact hb

theorem good_afterStep (hb : GoodIn env b) (ht : b.chan[c].state = .test) (k : StepKind) : GoodIn env (b.afterStep env c k) := by
  cases k with
  | poolcheck => exact good_enterSeedInstall hb ht
  | plan n => exact good_walkPlan _ hb ht
  | verify n =>
    simp only [Body.afterStep]
    split
    · exact good_enterRepairInstall hb ht
    · exact hb.tame (tame_enterReleasing env b c)

theorem endStep_state (env : Env) (b : Body) (c d : ChanId) : (b.endStep env c).chan[d].state = b.chan[d].state :=
  ((passes_scan env _).2 d).1.trans ((passes_modChan b c _ rfl).2 d).1

theorem good_stepOutcome (hb : GoodIn env b) (ht : b.chan[c].state = .test) (k : StepKind) (outcome : Byte) :
    GoodIn env (b.stepOutcome env c k outcome) := by
  have hend := good_endStep hb c
  have htest : (b.endStep env c).chan[c].state = .test := (endStep_state env b c c).trans ht
  unfold Body.stepOutcome
  generalize b.endStep env c = b1 at hend htest ⊢
  split
  · exact good_afterStep hend htest k
  · split
    · split
      · exact good_failChannel hb c _
      · have hskip := hend.tame (tame_modChan_same (c := c) (f := fun ch => { ch with skipped := ch.skipped + 1 })
          fun _ => ⟨rfl, rfl⟩)
        exact good_afterStep hskip (by rw [modChan_same]; exact htest) k
    · split <;> exact good_failChannel hb c _

end Phases

/-! ### Rediscovery -/

theorem tame_claimRow {env : Env} {b : Body} {c : ChanId} {e : EntryNo} {r : Live} {v : Inventory} (h : b.dir[e].live = some r) :
    Tame b (b.claimRow env c e r v) := by
  unfold Body.claimRow
  dsimp only
  split
  · exact (tame_modInv b c _).trans (tame_changeEntry_some (r := r) h rfl)
  · exact tame_changeEntry_some h rfl

theorem tame_claimBank {b : Body} {c : ChanId} {e : EntryNo} {r : Live} {v : Inventory} (h : b.dir[e].live = some r) :
    Tame b (b.claimBank c e r v) := by
  unfold Body.claimBank
  refine Tame.trans ?_ (tame_foldl tame_freeEntry _ _)
  exact tame_changeEntry_some h rfl

theorem tame_claimVisit (env : Env) (c : ChanId) (st : Body × List Nat) (e : EntryNo) :
    Tame st.1 (Body.claimVisit env c st e).1 := by
  unfold Body.claimVisit
  split
  · rename_i r v hr hv
    split
    · exact tame_forgetEntry st.1 e
    · split
      · dsimp only
        exact tame_claimBank hr
      · dsimp only
        exact tame_claimRow hr
  · exact Tame.refl st.1

theorem tame_claim (env : Env) (b : Body) (c : ChanId) (g : Geometry) : Tame b (b.claim env c g) :=
  foldl_keeps (P := fun st : Body × List Nat => Tame b st.1) (fun st e h => h.trans (tame_claimVisit env c st e)) _ _
    (tame_inv b _)

/-- The blocks `b'` have every channel in the state that it has in `b`. -/
def SameStates (b b' : Body) : Prop := ∀ d : ChanId, b'.chan[d].state = b.chan[d].state

theorem freeEntry_states (b : Body) (e : EntryNo) : SameStates b (b.freeEntry e) := by
  intro d
  cases h : b.dir[e].live with
  | none => rw [freeEntry_free h]
  | some r =>
    obtain ⟨b1, hb1, -, -, hchan⟩ := freeEntry_eq h
    rw [hb1, hchan]
    split <;> rfl

theorem claimBank_states (b : Body) (c : ChanId) (e : EntryNo) (r : Live) (v : Inventory) :
    SameStates b (b.claimBank c e r v) :=
  foldl_keeps (P := SameStates b) (fun x d h m => (freeEntry_states x d m).trans (h m)) _ _ fun _ => rfl

theorem claimRow_states (env : Env) (b : Body) (c : ChanId) (e : EntryNo) (r : Live) (v : Inventory) :
    SameStates b (b.claimRow env c e r v) := by
  unfold Body.claimRow
  dsimp only
  split <;> exact fun _ => rfl

theorem claimVisit_states (env : Env) (c : ChanId) (st : Body × List Nat) (e : EntryNo) :
    SameStates st.1 (Body.claimVisit env c st e).1 := by
  unfold Body.claimVisit
  split
  · split
    · exact fun _ => rfl
    · split
      · dsimp only
        exact claimBank_states _ _ _ _ _
      · dsimp only
        exact claimRow_states _ _ _ _ _ _
  · exact fun _ => rfl

theorem claim_states (env : Env) (b : Body) (c : ChanId) (g : Geometry) : SameStates b (b.claim env c g) :=
  foldl_keeps (P := fun st : Body × List Nat => SameStates b st.1)
    (fun st e h m => (claimVisit_states env c st e m).trans (h m)) _ _ fun _ => rfl

theorem good_rediscover {env : Env} {b : Body} {c : ChanId} (hb : GoodIn env b) (ht : b.chan[c].state = .test) (g : Geometry) :
    GoodIn env (b.rediscover env c g) := by
  have hclaim := hb.tame ((tame_dropWatch b (rediscoveryFrees c b.inv[c] g)).trans (tame_claim env _ c g))
  unfold Body.rediscover
  dsimp only
  split
  · exact good_failChannel hclaim c _
  · exact good_enterPoolcheck hclaim ((claim_states env _ c g c).trans ht)

theorem good_takeGeometry {env : Env} {b b1 : Body} {c : ChanId} {g : Geometry} (hb : GoodIn env b)
    (h : b.takeGeometry env c g = some b1) : GoodIn env b1 := by
  unfold Body.takeGeometry at h
  split at h
  · rename_i hw
    obtain rfl := Option.some.inj h
    have hend := hb.tame (tame_modChan_same (c := c) (f := fun ch => { ch with geomWait := none }) fun _ => ⟨rfl, rfl⟩)
    split
    · exact good_rediscover hend (by rw [modChan_same]; exact hw.1) g
    · exact good_failChannel hend c _
  · cases h

end Sys2Proof.Proofs.Keeping
end

section
/-! SUPPORT. The properties that every step keeps: entries made, the repair trigger, scores, and what client messages and requests
do to the blocks. -/

namespace Sys2Proof.Proofs.Keeping

open Sys2Proof Sys2Proof.Machine Sys2Proof.Laws

/-! ### Entries made -/

/-- A key that an entry may be made for: no entry has it, and no whole-bank entry stands in its bank, nor any entry there if it is
a whole bank's itself (R3). -/
def KeyNew (b : Body) (k : Key) : Prop := ∀ (d : EntryNo) (r : Live), b.dir[d].live = some r →
  r.key ≠ k ∧ (r.key.chan = k.chan → r.key.bank = k.bank → r.key.row ≠ none ∧ k.row ≠ none)

theorem keyNew_row {b : Body} {k : Key} (hrow : k.row ≠ none) (hx : b.excluded k.chan k.bank = false) (hf : b.findKey k = none) :
    KeyNew b k := by
  refine fun d r hr => ⟨findKey_none.1 hf d r hr, fun hc hb => ⟨fun hn => ?_, hrow⟩⟩
  have hex : b.excluded k.chan k.bank = true := by
    refine (excluded_iff _ _ _).2 ⟨d, r, hr, ?_⟩
    rw [← hc, ← hb, ← hn]
  rw [hx] at hex
  cases hex

theorem keyNew_seed {b : Body} {k : Key} (hx : b.excluded k.chan k.bank = false) (ht : b.keyTaken k = false) : KeyNew b k := by
  have hother : ∀ (d : EntryNo) (r : Live), b.dir[d].live = some r →
      ¬(r.key = k ∨ (k.row = none ∧ r.key.chan = k.chan ∧ r.key.bank = k.bank)) := by
    intro d r hr h
    have htaken : b.keyTaken k = true := (anyEntry_iff _ _).2 ⟨d, r, hr, by simpa [and_assoc] using h⟩
    rw [ht] at htaken
    cases htaken
  refine fun d r hr => ⟨fun hk => hother d r hr (.inl hk), fun hc hb => ⟨fun hn => ?_, fun hn => hother d r hr (.inr ⟨hn, hc, hb⟩)⟩⟩
  have hex : b.excluded k.chan k.bank = true := by
    refine (excluded_iff _ _ _).2 ⟨d, r, hr, ?_⟩
    rw [← hc, ← hb, ← hn]
  rw [hx] at hex
  cases hex

theorem mild_changeEntry (b : Body) (e : EntryNo) (l : Option Live) : Mild b (b.changeEntry e l) :=
  ⟨fun _ _ h => h, fun _ => Calm.refl _, fun _ => le_rfl, fun _ h => h⟩

theorem keysDistinct_create {b : Body} {e : EntryNo} {l : Live} (hb : KeysDistinct b) (h : KeyNew b l.key) :
    KeysDistinct (b.createEntry e l) := by
  have hcases : ∀ (d : EntryNo) (r : Live), (b.createEntry e l).dir[d].live = some r →
      (e = d ∧ r = l) ∨ (e ≠ d ∧ b.dir[d].live = some r) := by
    intro d r hr
    unfold Body.createEntry at hr
    by_cases hd : e = d
    · subst hd
      rw [changeEntry_same] at hr
      exact .inl ⟨rfl, (Option.some.inj hr).symm⟩
    · rw [changeEntry_other b _ hd] at hr
      exact .inr ⟨hd, hr⟩
  refine ⟨fun i j r q hr hq hk => ?_, fun i j r q hr hq hn hc hbk => ?_⟩ <;>
    obtain ⟨hi, hri⟩ | ⟨hi, hri⟩ := hcases i r hr <;> obtain ⟨hj, hqj⟩ | ⟨hj, hqj⟩ := hcases j q hq
  · exact hi.symm.trans hj
  · exact absurd (hk.symm.trans (congrArg Live.key hri)) (h j q hqj).1
  · exact absurd (hk.trans (congrArg Live.key hqj)) (h i r hri).1
  · exact hb.1 i j r q hri hqj hk
  · exact hi.symm.trans hj
  · subst hri
    exact absurd hn ((h j q hqj).2 hc.symm hbk.symm).2
  · subst hqj
    exact absurd hn ((h i r hri).2 hc hbk).1
  · exact hb.2 i j r q hri hqj hn hc hbk

theorem good_createEntry {n : Nat} {b : Body} {e : EntryNo} {l : Live} (hb : Good n b) (h : KeyNew b l.key) :
    Good n (b.createEntry e l) := hb.mild (mild_changeEntry b e _) (keysDistinct_create hb.keys h)

theorem good_createRow {n : Nat} {b : Body} {k : Key} (hb : Good n b) (h : KeyNew b k) (e : EntryNo) (x : Replacement)
    (o : Origin) : Good n (b.createRow e k x o) := good_createEntry (hb.tame (tame_modInv b _ _)) h

/-! ### Fence queues and the repair trigger -/

theorem queueFull_of_fence {b b' : Body} (h : b'.fence = b.fence) (c : ChanId) : b'.queueFull c = b.queueFull c := by
  have hunit : b'.fenceOf c = b.fenceOf c := by
    unfold Body.fenceOf
    rw [h]
  rw [Body.queueFull, Body.queueFull, hunit]

/-- R107: an entry joins a queue that is not full. -/
theorem good_joinQueue {env : Env} {b : Body} {c : ChanId} (hb : GoodIn env b) (hq : b.queueFull c = false) (sweep : Bool)
    (e : EntryNo) : GoodIn env (b.joinQueue env sweep c e) := by
  have hjoin : GoodIn env (b.modFence c fun u => { u with queue := u.queue ++ [e] }) := by
    refine ⟨?_, ?_, ?_, ?_, fun f => ?_, ?_⟩
    · simpa only [Body.unitsInUse, modFence_chan] using hb.units
    · simpa only [modFence_chan] using hb.asks
    · simpa only [WatchKept, modFence_watch] using hb.watch
    · simpa only [KeysDistinct, modFence_dir] using hb.keys
    · rw [modFence_fence]
      split
      · rename_i hf
        have hlt : (b.fenceOf c).queue.length < 32 := by
          have hc : c.val < 8 := hf ▸ f.isLt
          simp only [Body.queueFull, isBuffer, hc, Config.fenceQueueMax, decide_true, Bool.true_and] at hq
          exact Nat.not_le.1 (of_decide_eq_false hq)
        rw [fenceOf_buffer b hf] at hlt
        rw [List.length_append]
        exact hlt
      · exact hb.fence f
    · simpa only [modFence_link] using hb.link
  unfold Body.joinQueue
  dsimp only
  split
  · exact hjoin
  · exact hjoin.tame (tame_serveHead env _ c)

theorem good_onward {env : Env} {b : Body} {c : ChanId} (hb : GoodIn env b) (hq : b.queueFull c = false) (sweep : Bool)
    (e : EntryNo) : GoodIn env (b.onward env sweep c e) := by
  unfold Body.onward
  split
  · exact good_joinQueue hb hq sweep e
  · exact hb.tame (tame_sendInstall b e false)

theorem good_newRepair {env : Env} {b : Body} {k : Key} (hb : GoodIn env b) (hk : KeyNew b k) (sweep : Bool) :
    GoodIn env (b.newRepair env sweep k) := by
  unfold Body.newRepair
  split
  · exact hb
  · rename_i hq
    split
    · exact hb.tame (tame_raise b _ _)
    · split
      · exact hb.tame (tame_raise b _ _)
      · refine good_onward (good_createRow hb hk _ _ _) ?_ sweep _
        rw [queueFull_of_fence (b := b) (by rfl)]
        simpa using hq

theorem retarget_fence {env : Env} {b b1 : Body} {e : EntryNo} {round : Option Nat} (h : b.retarget env e round = some b1) :
    b1.fence = b.fence := by
  unfold Body.retarget at h
  split at h
  · cases h
  · split at h
    · split at h
      · cases h
      · obtain rfl := Option.some.inj h
        rw [changeEntry_fence, forgetRepaired_fence, modInv_fence]
    · cases h

theorem good_retargetRepair {env : Env} {b : Body} {k : Key} {e : EntryNo} (hb : GoodIn env b) (sweep : Bool) :
    GoodIn env (b.retargetRepair env sweep k e) := by
  unfold Body.retargetRepair
  split
  · exact hb
  · rename_i hq
    split
    · exact hb.tame (tame_raise b _ _)
    · rename_i b1 h
      refine good_onward (hb.tame (tame_retarget h)) ?_ sweep e
      rw [queueFull_of_fence (retarget_fence h)]
      simpa using hq

/-- R55: the trigger for a row of a bank that is not excluded. -/
theorem good_trigger {env : Env} {b : Body} {k : Key} (hb : GoodIn env b) (hrow : k.row ≠ none)
    (hx : b.excluded k.chan k.bank = false) (sweep : Bool) (score : Nat) : GoodIn env (b.trigger env sweep k score) := by
  unfold Body.trigger
  split
  · exact hb
  · split
    · rename_i hf
      exact good_newRepair hb (keyNew_row hrow hx hf) sweep
    · split
      · split
        · exact good_retargetRepair hb sweep
        · exact hb
      · exact hb

/-- R58: the sweep passes over excluded banks. -/
theorem good_sweep {env : Env} {b : Body} (hb : GoodIn env b) (c : ChanId) : GoodIn env (b.sweep env c) := by
  refine foldl_keeps (P := GoodIn env) (fun x i hx => ?_) _ b hb
  unfold Body.sweepVisit
  split
  · exact hx
  · split
    · rename_i h
      exact good_trigger hx (Option.some_ne_none _) h.2 true _
    · exact hx

theorem good_enterService {env : Env} {b : Body} (hb : GoodIn env b) (c : ChanId) : GoodIn env (b.enterService env c) := by
  unfold Body.enterService
  refine Good.tame (good_sweep ?_ c) (tame_serveHead env _ c)
  exact hb.tame (tame_modChan_none fun _ => rfl)

/-! ### The watch table -/

/-- A record within the range of scores, put where no other record has its row. -/
theorem good_setWatch {n : Nat} {b : Body} {i : WatchNo} {w : Watch} (hb : Good n b) (hs : 1 ≤ w.score ∧ w.score ≤ 1023)
    (hu : ∀ (j : WatchNo) (v : Watch), b.watch[j] = some v → w.chan = v.chan → w.bank = v.bank → w.row = v.row → i = j) :
    Good n (b.setWatch i w) := by
  have hcases : ∀ (j : WatchNo) (v : Watch), (b.setWatch i w).watch[j] = some v →
      (i = j ∧ v = w) ∨ b.watch[j] = some v := by
    intro j v hv
    by_cases hj : i = j
    · subst hj
      rw [setWatch_same] at hv
      exact .inl ⟨rfl, (Option.some.inj hv).symm⟩
    · rw [setWatch_other b w hj] at hv
      exact .inr hv
  refine ⟨hb.units, hb.asks, ⟨fun j v hv => ?_, fun j m v u hv hu' hk => ?_⟩, hb.keys, hb.fence, hb.link⟩
  · obtain ⟨-, rfl⟩ | hv := hcases j v hv
    · exact hs
    · exact hb.watch.1 j v hv
  · simp only [Watch.isFor, Bool.and_eq_true, beq_iff_eq] at hk
    obtain ⟨⟨hc, hbk⟩, hr⟩ := hk
    obtain ⟨hj, rfl⟩ | hv := hcases j v hv <;> obtain ⟨hm, rfl⟩ | hu' := hcases m u hu'
    · exact hj.symm.trans hm
    · exact hj.symm.trans (hu m u hu' hc hbk hr)
    · exact (hu j v hv hc.symm hbk.symm hr.symm).symm.trans hm
    · exact hb.watch.2 j m v u hv hu' (by simp [Watch.isFor, hc, hbk, hr])

theorem good_score {env : Env} {b : Body} {i : WatchNo} {w : Watch} (hb : GoodIn env b) (hs : 1 ≤ w.score ∧ w.score ≤ 1023)
    (hu : ∀ (j : WatchNo) (v : Watch), b.watch[j] = some v → w.chan = v.chan → w.bank = v.bank → w.row = v.row → i = j)
    (hx : b.excluded w.chan w.bank = false) : GoodIn env (b.score env i w) :=
  good_trigger (k := ⟨w.chan, w.bank, some w.row⟩) (good_setWatch hb hs hu) (Option.some_ne_none _) hx false _

theorem findWatch_some {b : Body} {c : ChanId} {bank row : Nat} {i : WatchNo} (h : b.findWatch c bank row = some i) :
    ∃ w, b.watch[i] = some w ∧ w.isFor c bank row = true := by
  simp only [Body.findWatch, Body.numberedWatch, Option.map_eq_some_iff, Prod.exists] at h
  obtain ⟨j, x, hf, rfl⟩ := h
  obtain ⟨hx, hp, -⟩ := (find_zip_some _ _ _ _).1 hf
  subst hx
  simpa [Option.any_eq_true] using hp

theorem findWatch_none {b : Body} {c : ChanId} {bank row : Nat} (h : b.findWatch c bank row = none) (i : WatchNo) (w : Watch)
    (hw : b.watch[i] = some w) : w.isFor c bank row = false := by
  simp only [Body.findWatch, Body.numberedWatch, Option.map_eq_none_iff, find_zip_none] at h
  have hi := h i
  simp only [hw, Option.any_some] at hi
  exact hi

theorem isFor_iff (w : Watch) (c : ChanId) (bank row : Nat) :
    w.isFor c bank row = true ↔ w.chan = c ∧ w.bank = bank ∧ w.row = row := by
  simp [Watch.isFor, and_assoc]

theorem weight_range (k : ReportKind) : 1 ≤ k.weight ∧ k.weight ≤ 1023 := by cases k <;> decide

theorem add_range {w : Watch} (h : 1 ≤ w.score) (k : ReportKind) : 1 ≤ (w.add k).score ∧ (w.add k).score ≤ 1023 := by
  simp only [Watch.add, Config.scoreMax]
  omega

theorem good_addReport {env : Env} {b : Body} {c : ChanId} {bank : Nat} (hb : GoodIn env b) (hx : b.excluded c bank = false)
    (row : Nat) (k : ReportKind) : GoodIn env (b.addReport env c bank row k) := by
  unfold Body.addReport
  split
  · rename_i i hf
    obtain ⟨w, hw, hfor⟩ := findWatch_some hf
    obtain ⟨hc, hbk, -⟩ := (isFor_iff _ _ _ _).1 hfor
    split
    · rename_i w' hw'
      rw [hw] at hw'
      cases hw'
      refine good_score hb (add_range (hb.watch.1 i w hw).1 k) (fun j v hv h1 h2 h3 => ?_) ?_
      · exact hb.watch.2 i j w v hw hv ((isFor_iff _ _ _ _).2 ⟨h1, h2, h3⟩)
      · have hsame : (w.add k).chan = c ∧ (w.add k).bank = bank := ⟨hc, hbk⟩
        rw [hsame.1, hsame.2]
        exact hx
    · exact hb
  · rename_i hf
    have hnone : ∀ (j : WatchNo) (v : Watch), b.watch[j] = some v → c = v.chan → bank = v.bank → row = v.row → False := by
      intro j v hv h1 h2 h3
      have := findWatch_none hf j v hv
      rw [(isFor_iff _ _ _ _).2 ⟨h1.symm, h2.symm, h3.symm⟩] at this
      cases this
    split
    · exact good_score hb (weight_range k) (fun j v hv h1 h2 h3 => (hnone j v hv h1 h2 h3).elim) hx
    · have hraise := hb.tame (tame_raise b .watchFull (.channel c))
      unfold Body.scoreFull
      dsimp only
      split
      · split
        · exact good_score hraise (weight_range k) (fun j v hv h1 h2 h3 => (hnone j v hv h1 h2 h3).elim) hx
        · exact hraise
      · exact hraise

theorem good_takeReport {env : Env} {b b1 : Body} {c : ChanId} {f : RxFrame} (hb : GoodIn env b)
    (h : b.takeReport env c f = some b1) : GoodIn env b1 := by
  unfold Body.takeReport at h
  split at h
  · rename_i hr
    obtain rfl := Option.some.inj h
    simp only [Body.reportable, Bool.and_eq_true, Bool.not_eq_true'] at hr
    exact good_addReport hb hr.2 _ _
  · cases h

/-- R53: a decay leaves a record away or takes it to 7/8 of its score, its row as it was. -/
theorem decay_some {w v : Watch} (h : w.decay = some v) :
    v.chan = w.chan ∧ v.bank = w.bank ∧ v.row = w.row ∧ 1 ≤ v.score ∧ v.score ≤ w.score := by
  unfold Watch.decay at h
  split at h
  · cases h
  · obtain rfl := Option.some.inj h
    refine ⟨rfl, rfl, rfl, ?_, ?_⟩ <;> dsimp only <;> omega

theorem good_decay {n : Nat} {b : Body} (hb : Good n b) : Good n b.decay := by
  have hrec : ∀ (i : WatchNo) (v : Watch), b.decay.watch[i] = some v → ∃ w, b.watch[i] = some w ∧ w.decay = some v := by
    intro i v hv
    have hm : b.decay.watch[i] = b.watch[i].bind Watch.decay := by simp [Body.decay]
    rw [hm] at hv
    exact Option.bind_eq_some_iff.1 hv
  refine ⟨hb.units, hb.asks, ⟨fun i v hv => ?_, fun i j v u hv hu hk => ?_⟩, hb.keys, hb.fence, hb.link⟩
  · obtain ⟨w, hw, hd⟩ := hrec i v hv
    obtain ⟨-, -, -, hlo, hhi⟩ := decay_some hd
    exact ⟨hlo, hhi.trans (hb.watch.1 i w hw).2⟩
  · obtain ⟨w, hw, hd⟩ := hrec i v hv
    obtain ⟨x, hx, hd'⟩ := hrec j u hu
    obtain ⟨hc, hbk, hr, -, -⟩ := decay_some hd
    obtain ⟨hc', hbk', hr', -, -⟩ := decay_some hd'
    exact hb.watch.2 i j w x hw hx (by rwa [isFor_iff, ← hc, ← hbk, ← hr, ← hc', ← hbk', ← hr', ← isFor_iff])

/-! ### FAIL -/

theorem good_testRetarget {env : Env} {b : Body} (hb : GoodIn env b) (c : ChanId) (e : EntryNo) (round : Option Nat) :
    GoodIn env (b.testRetarget env c e round) := by
  unfold Body.testRetarget
  split
  · rename_i b1 h
    exact (hb.tame (tame_retarget h)).tame (tame_countRepair b1 c)
  · exact good_failChannel hb c _

theorem good_failPool {env : Env} {b : Body} (hb : GoodIn env b) (c : ChanId) (v : Inventory) (row : Nat) :
    GoodIn env (b.failPool env c v row) := by
  unfold Body.failPool
  dsimp only
  split
  · exact hb.tame (tame_modInv b c _)
  · split
    · exact good_testRetarget hb c _ _
    · exact hb
  all_goals exact hb

/-- Freeing a list of entries leaves each of them FREE. -/
theorem foldl_freeEntry_free (d : EntryNo) : ∀ (es : List EntryNo) (b : Body), d ∈ es ∨ b.dir[d].live = none →
    (es.foldl Body.freeEntry b).dir[d].live = none
  | [], b, h => h.resolve_left List.not_mem_nil
  | e :: es, b, h => by
    refine foldl_freeEntry_free d es (b.freeEntry e) ?_
    have hkeep : b.dir[d].live = none → (b.freeEntry e).dir[d].live = none := by
      intro hn
      cases hl : (b.freeEntry e).dir[d].live with
      | none => rfl
      | some q =>
        obtain ⟨r, hr, -⟩ := (tame_freeEntry b e).dir d q hl
        rw [hn] at hr
        cases hr
    rcases h with h | h
    · rcases List.mem_cons.1 h with rfl | h
      · right
        cases hl : b.dir[d].live with
        | none => exact hkeep hl
        | some r =>
          obtain ⟨b1, hb1, hrest, -⟩ := freeEntry_eq hl
          rw [hb1, hrest]
          simp
      · exact .inl h
    · exact .inr (hkeep h)

/-- R40: a bank excluded whole holds its whole-bank entry alone. -/
theorem good_excludeBank {env : Env} {b : Body} (hb : GoodIn env b) (c : ChanId) (bank : Nat) :
    GoodIn env (b.excludeBank env c bank) := by
  unfold Body.excludeBank
  split
  · exact good_failChannel hb c _
  · rename_i e he
    dsimp only
    generalize hl : Live.mk .pending ⟨c, bank, none⟩ (some .exclude) none .test (b.deviceTag c) 0 = l
    have hkey : l.key = ⟨c, bank, none⟩ := by rw [← hl]
    have hcount := tame_countRepair (b.createEntry e l) c
    have hdir : ((b.createEntry e l).countRepair c).dir = (b.createEntry e l).dir := rfl
    generalize (b.createEntry e l).countRepair c = b1 at hcount hdir ⊢
    have hfree := tame_foldl tame_freeEntry
      ((b1.entriesWhere fun r => r.key.chan == c && r.key.bank == bank).filter (· != e)) b1
    have hgone : ∀ (d : EntryNo) (q : Live), ((((b1.entriesWhere fun r => r.key.chan == c && r.key.bank == bank).filter
        (· != e)).foldl Body.freeEntry b1).dir[d].live = some q) →
        (d = e ∧ q.key = ⟨c, bank, none⟩) ∨
          ((∃ r, b.dir[d].live = some r ∧ r.key = q.key) ∧ ¬(q.key.chan = c ∧ q.key.bank = bank)) := by
      intro d q hq
      obtain ⟨r, hr, hk⟩ := hfree.dir d q hq
      have hr1 := hr
      rw [hdir] at hr
      by_cases hd : e = d
      · subst hd
        rw [show (b.createEntry e l).dir[e] = ⟨b.dir[e].gen + 1#8, some l⟩ from changeEntry_same b e _] at hr
        refine .inl ⟨rfl, ?_⟩
        rw [← hk, ← Option.some.inj hr, hkey]
      · rw [show (b.createEntry e l).dir[d] = b.dir[d] from changeEntry_other b _ hd] at hr
        refine .inr ⟨⟨r, hr, hk⟩, fun hcb => ?_⟩
        have hmem : d ∈ (b1.entriesWhere fun r => r.key.chan == c && r.key.bank == bank).filter (· != e) := by
          rw [List.mem_filter, mem_entriesWhere]
          exact ⟨⟨r, hr1, by simp [hk, hcb.1, hcb.2]⟩, by simpa using Ne.symm hd⟩
        rw [foldl_freeEntry_free d _ b1 (.inl hmem)] at hq
        cases hq
    refine hb.mild (((mild_changeEntry b e (some l)).trans hcount.toMild).trans hfree.toMild) ?_
    refine ⟨fun i j r q hr hq hk => ?_, fun i j r q hr hq hn hc hbk => ?_⟩ <;>
      obtain ⟨hi, hri⟩ | ⟨⟨x, hx, hxk⟩, hri⟩ := hgone i r hr <;> obtain ⟨hj, hqj⟩ | ⟨⟨y, hy, hyk⟩, hqj⟩ := hgone j q hq
    · exact hi.trans hj.symm
    · exact absurd (by rw [← hk, hri]; exact ⟨rfl, rfl⟩) hqj
    · exact absurd (by rw [hk, hqj]; exact ⟨rfl, rfl⟩) hri
    · exact hb.keys.1 i j x y hx hy (hxk.trans (hk.trans hyk.symm))
    · exact hi.trans hj.symm
    · exact absurd (by rw [← hc, ← hbk, hri]; exact ⟨rfl, rfl⟩) hqj
    · exact absurd (by rw [hc, hbk, hqj]; exact ⟨rfl, rfl⟩) hri
    · exact hb.keys.2 i j x y hx hy (by rw [hxk]; exact hn) (by rw [hxk, hyk]; exact hc) (by rw [hxk, hyk]; exact hbk)

theorem good_bankLimit {env : Env} {b : Body} (hb : GoodIn env b) (c : ChanId) (bank : Nat) :
    GoodIn env (b.bankLimit env c bank) := by
  unfold Body.bankLimit
  split
  · exact hb
  · split
    · exact good_excludeBank hb c bank
    · exact good_failChannel hb c _

theorem good_failNew {env : Env} {b : Body} {k : Key} (hb : GoodIn env b) (hk : KeyNew b k) : GoodIn env (b.failNew env k) := by
  unfold Body.failNew
  split
  · exact good_failChannel hb _ _
  · split
    · exact good_failChannel hb _ _
    · refine good_bankLimit ?_ _ _
      exact ((good_createRow hb hk _ _ _).tame (tame_countRepair _ _)).tame (tame_modInv _ _ _)

theorem good_failMain {env : Env} {b : Body} {k : Key} (hb : GoodIn env b) (hrow : k.row ≠ none)
    (hx : b.excluded k.chan k.bank = false) : GoodIn env (b.failMain env k) := by
  unfold Body.failMain
  split
  · rename_i hf
    exact good_failNew hb (keyNew_row hrow hx hf)
  · split
    · split
      · exact good_testRetarget hb _ _ _
      · exact hb
    · exact hb

theorem tame_markRound (b : Body) (c : ChanId) : Tame b (b.markRound c) := tame_modChan_same fun _ => ⟨rfl, rfl⟩

theorem good_failVerifyActive {env : Env} {b : Body} (hb : GoodIn env b) (c : ChanId) (e : EntryNo) (k : Nat) :
    GoodIn env (b.failVerifyActive env c e k) := by
  unfold Body.failVerifyActive
  split
  · exact good_testRetarget (hb.tame (tame_markRound b c)) c e _
  · split
    · exact ((hb.tame (tame_markRound b c)).tame (tame_convert _ e k)).tame (tame_countRepair _ c)
    · exact good_failChannel hb c _

theorem good_failVerify {env : Env} {b : Body} (hb : GoodIn env b) (key : Key) (k : Nat) : GoodIn env (b.failVerify env key k) := by
  unfold Body.failVerify
  split
  · exact hb
  · split
    · split
      · exact good_failVerifyActive hb _ _ k
      · exact hb
    · exact hb

theorem good_takeFail {env : Env} {b b1 : Body} {c : ChanId} {r : Running} {bank row : Nat} (hb : GoodIn env b)
    (h : b.takeFail env c r bank row = some b1) : GoodIn env b1 := by
  unfold Body.takeFail at h
  split at h
  · cases h
  · rename_i hx
    split at h
    · exact Option.some.inj h ▸ good_failChannel hb c _
    · obtain rfl := Option.some.inj h
      split
      · unfold Body.failByPhase
        split
        · exact good_failPool hb c _ row
        · exact good_failMain hb nofun (by simpa using hx)
        · exact good_failVerify hb _ _
      · exact good_failChannel hb c _

/-! ### ACK and DRAINED -/

theorem good_rejectTarget {env : Env} {b : Body} (hb : GoodIn env b) (c : ChanId) (e : EntryNo) :
    GoodIn env (b.rejectTarget env c e) := by
  unfold Body.rejectTarget
  split
  · exact good_failChannel hb c _
  · rename_i b1 h
    have h1 := hb.tame (tame_retarget h)
    split
    · exact (h1.tame (tame_sendInstall b1 e true)).tame (tame_await _ c)
    · exact (h1.tame (tame_sendInstall b1 e false)).tame (tame_countRepair _ c)

theorem tame_noteRepaired (b : Body) (c : ChanId) (r : Live) : Tame b (b.noteRepaired c r) := by
  unfold Body.noteRepaired
  split
  · exact tame_addRepaired b c _
  · exact Tame.refl b

theorem tame_owe (b : Body) (e : EntryNo) (k : Key) : Tame b (b.owe e k) :=
  (tame_setEntryState b e _).trans (tame_raise _ _ _)

theorem good_installed {env : Env} {b : Body} (hb : GoodIn env b) (c : ChanId) (e : EntryNo) (r : Live) :
    GoodIn env (b.installed env c e r) := by
  unfold Body.installed
  split
  · exact good_checkInstallPhase ((hb.tame (tame_activate b e)).tame (tame_noteRepaired _ c r)) c
  · split
    · exact hb.tame (tame_activate b e)
    · exact hb.tame (tame_owe b e _)
  · exact hb.tame (tame_activate b e)
  · split
    · exact (hb.tame (tame_activate b e)).tame (tame_raise _ _ _)
    · exact hb.tame (tame_owe b e _)
  all_goals exact hb

theorem good_installRefused {env : Env} {b : Body} (hb : GoodIn env b) (c : ChanId) (e : EntryNo) (r : Live) :
    GoodIn env (b.installRefused env c e r) := by
  unfold Body.installRefused
  split
  · exact good_rejectTarget hb c e
  · exact good_rejectTarget hb c e
  iterate 4
    · exact hb
  · exact good_failChannel hb c _

theorem good_mappingRefused {env : Env} {b : Body} (hb : GoodIn env b) (c : ChanId) (e : EntryNo) (r : Live) :
    GoodIn env (b.mappingRefused env c e r) := by
  unfold Body.mappingRefused
  split
  · exact good_rejectTarget hb c e
  · exact good_failChannel hb c _
  · exact hb

theorem tame_removed (b : Body) (c : ChanId) (e : EntryNo) (r : Live) : Tame b (b.removed c e r) := by
  unfold Body.removed
  dsimp only
  split
  · exact (tame_freeEntry b e).trans (tame_raise _ _ _)
  · exact tame_freeEntry b e

theorem good_ackEntry {env : Env} {b : Body} (hb : GoodIn env b) (c : ChanId) (e : EntryNo) (r : Live) (ok : Bool) :
    GoodIn env (b.ackEntry env c e r ok) := by
  unfold Body.ackEntry
  split
  · split
    · exact good_installed hb c e r
    · exact good_installRefused hb c e r
  · split
    · exact hb
    · exact good_mappingRefused hb c e r
  · split
    · exact hb
    · exact good_mappingRefused hb c e r
  · exact hb.tame (tame_removed b c e r)
  all_goals exact hb

theorem good_ackDirectory {env : Env} {b : Body} (hb : GoodIn env b) (c : ChanId) (e : EntryNo) (gen : Byte) (resync ok : Bool) :
    GoodIn env (b.ackDirectory env c e gen resync ok) := by
  have hlow : GoodIn env (if resync then b.answered c else b) := by
    split
    · exact hb.tame (tame_answered b c)
    · exact hb
  unfold Body.ackDirectory
  dsimp only
  split
  · split
    · exact good_ackEntry hlow c e _ ok
    · split
      · exact good_failChannel hlow c _
      · exact hlow
  · split
    · exact good_failChannel hlow c _
    · exact hlow

theorem good_ackOwner {env : Env} {b : Body} (hb : GoodIn env b) (c : ChanId) (n : Note) (ok : Bool) :
    GoodIn env (b.ackOwner env c n ok) := by
  unfold Body.ackOwner
  split
  · exact good_ackDirectory hb c _ _ _ ok
  · unfold Body.ackClearSet
    split
    · split
      · exact hb.tame (tame_answered b c)
      · exact good_failChannel (hb.tame (tame_answered b c)) c _
    · exact hb
  · unfold Body.ackResyncRelease
    split
    · split
      · exact good_enterService hb c
      · exact good_failChannel hb c _
    · exact hb
  iterate 2
    unfold Body.ackRunRelease
    split
    · split
      · split
        · exact good_enterService (hb.tame (tame_raise b _ _)) c
        · exact good_failChannel hb c _
      · split
        · exact good_enterService hb c
        · exact good_failChannel hb c _
      · exact hb
    · exact hb
  all_goals exact hb

theorem LinkOk.unflight {k : Link} (h : LinkOk k) (seq : BitVec 4) : LinkOk (k.unflight seq) where
  sendq := h.sendq
  inflight := (List.length_filter_le _ _).trans h.inflight
  rx := h.rx
  empty hs := ⟨(h.empty hs).1, by simp [Link.unflight, (h.empty hs).2]⟩

theorem good_takeAck {env : Env} {b b1 : Body} {c : ChanId} {f : RxFrame} (hb : GoodIn env b)
    (h : b.takeAck env c f = some b1) : GoodIn env b1 := by
  unfold Body.takeAck at h
  split at h
  · cases h
  · obtain ⟨g, -, rfl⟩ := Option.map_eq_some_iff.1 h
    refine Good.tame (Good.tame (good_ackOwner ?_ c _ _) (tame_resyncCheck _ c)) (tame_advanceLane env _ c)
    exact hb.tame (tame_modLink fun hl => hl.unflight _)

theorem good_drain {env : Env} {b : Body} (hb : GoodIn env b) (c : ChanId) (f : Fence) : GoodIn env (b.drain env c f) := by
  have hend := hb.tame (tame_modFence c (f := fun u => { u with out := none }) fun _ => le_rfl)
  unfold Body.drain
  dsimp only
  refine Good.tame ?_ (tame_serveHead env _ c)
  split
  · exact hend.tame (tame_sendInstall _ _ _)
  · exact hend.tame (tame_sendRemove _ _)

theorem good_fenceExpired {env : Env} {b : Body} (hb : GoodIn env b) (c : ChanId) (f : Fence) :
    GoodIn env (b.fenceExpired env c f) := by
  have hlift := hb.tame (tame_offer b c (.lift f.serial) (.lift f.serial))
  unfold Body.fenceExpired
  dsimp only
  refine Good.tame ?_ (tame_serveHead env _ c)
  refine Good.tame ?_ (tame_modFence c fun _ => le_rfl)
  refine Good.tame ?_ (tame_raise _ _ _)
  split
  · exact hlift.tame (tame_freeEntry _ _)
  · exact hlift.tame (tame_activate _ _)

/-! ### Frames that arrive, and HELLO -/

/-- R133: a frame enters a slot that is empty. -/
theorem LinkOk.accept {k : Link} (h : LinkOk k) {f : RxFrame} (hs : k.slotBusy f.seq = false) : LinkOk (k.accept f) := by
  refine ⟨h.sendq, h.inflight, ?_, h.empty⟩
  simp only [Link.accept, List.pairwise_append, List.pairwise_singleton, List.mem_singleton, true_and]
  refine ⟨h.rx, ?_⟩
  rintro g hg _ rfl
  have := List.any_eq_false.1 hs g hg
  simpa using this

theorem good_acceptFrame {env : Env} {b : Body} {l : ChanId} {f : RxFrame} (hb : GoodIn env b)
    (hs : b.link[l].slotBusy f.seq = false) : GoodIn env (b.acceptFrame env l f) := by
  have haccept := hb.tame (tame_modLink (c := l) (f := (·.accept f)) fun h => h.accept hs)
  unfold Body.acceptFrame
  dsimp only
  split
  · exact haccept
  · have hgap := haccept.tame (tame_modLink (c := l) (f := Link.noteGap) fun h => ⟨h.sendq, h.inflight, h.rx, h.empty⟩)
    split
    · exact good_failChannel hgap l _
    · exact hgap

theorem good_receive {env : Env} {b : Body} (hb : GoodIn env b) (l : ChanId) (bytes : List Byte) :
    GoodIn env (b.receive env l bytes) := by
  unfold Body.receive
  split
  · exact hb.tame (tame_modLink fun h => ⟨h.sendq, h.inflight, h.rx, h.empty⟩)
  · split
    · split
      · exact hb.tame (tame_modLink fun h => ⟨h.sendq, h.inflight, List.pairwise_singleton _ _, h.empty⟩)
      · exact hb
    · split
      · exact hb.tame (tame_modLink fun h => ⟨h.sendq, h.inflight, h.rx, h.empty⟩)
      · rename_i hs
        exact good_acceptFrame hb (by simpa using hs)
    · exact hb

theorem good_takeHello {env : Env} {b b1 : Body} {l : ChanId} {f : RxFrame} (hb : GoodIn env b)
    (h : b.takeHello env l f = some b1) : GoodIn env b1 := by
  unfold Body.takeHello at h
  split at h
  · obtain rfl := Option.some.inj h
    have hversion := hb.tame (tame_modLink (c := l) (f := fun k => { k with lastHello := some (f.at 0) })
      fun h => ⟨h.sendq, h.inflight, h.rx, h.empty⟩)
    split
    · refine good_linkReachedUp ?_ l
      exact hversion.tame (tame_modLink fun h => ⟨h.sendq, h.inflight, h.rx, fun hs => absurd rfl hs⟩)
    · exact hversion
  · cases h

/-! ### Requests -/

theorem good_seedEntry {n : Nat} {b : Body} {k : Key} (hb : Good n b) (hk : KeyNew b k) (e : EntryNo) (tag : Nat)
    (t : Option Target) : Good n (b.seedEntry e k tag t) := by
  unfold Body.seedEntry
  dsimp only
  split
  · exact good_createEntry (hb.tame (tame_modInv b _ _)) hk
  · exact good_createEntry hb hk
  · exact good_createEntry hb hk

theorem tame_sendInReady (b : Body) (c : ChanId) (e : EntryNo) : Tame b (b.sendInReady c e) := by
  unfold Body.sendInReady
  split
  · exact tame_sendInstall b e false
  · exact tame_sendInstall b e false
  · exact Tame.refl b

theorem good_addOnward {env : Env} {b : Body} {c : ChanId} (hb : GoodIn env b)
    (hq : b.chan[c].state = .service → b.queueFull c = false) (e : EntryNo) : GoodIn env (b.addOnward env c e) := by
  unfold Body.addOnward
  split
  · rename_i h
    exact good_onward hb (hq h) false e
  · exact hb.tame (tame_sendInstall b e false)
  all_goals exact hb

theorem good_retire {env : Env} {b : Body} {e : EntryNo} {r : Live} (hb : GoodIn env b) (h : b.retireRefusal r = none) :
    GoodIn env (b.retire env e r) := by
  unfold Body.retire
  dsimp only
  split
  · rename_i hf
    split
    · rename_i hs
      split
      · refine good_joinQueue (hb.tame (tame_setEntryState b e _)) ?_ false e
        have hsame : (b.setEntryState e .retireWait).fence = b.fence := by
          unfold Body.setEntryState
          split <;> rfl
        rw [queueFull_of_fence hsame]
        by_contra hfull
        have hfull : b.queueFull r.key.chan = true := by simpa using hfull
        unfold Body.retireRefusal at h
        simp only [hf, hs, hfull, Bool.and_true, Bool.true_and] at h
        split at h
        · cases h
        · split at h
          · cases h
          · simp at h
      · exact hb.tame (tame_sendRemove b e)
    · exact hb.tame (tame_sendRemove b e)
    iterate 4
      · exact hb.tame (tame_freeEntry b e)
    all_goals exact hb
  · exact good_checkInstallPhase (hb.tame (tame_freeEntry b e)) _

theorem tame_refilled (b : Body) (e : EntryNo) (r : Live) : Tame b (b.refilled e r) := by
  unfold Body.refilled
  dsimp only
  split
  · exact (tame_activate b e).trans (tame_raise _ _ _)
  · exact tame_activate b e

theorem tame_clearConds (b : Body) (ns : List (Fin 10)) : Tame b (b.clearConds ns) := by
  refine tame_foldl (fun x n => ?_) ns b
  split
  · exact Tame.refl x
  · exact tame_att x _

theorem tame_routeConds (b : Body) (ns : List (Fin 10)) (en : Bool) (l : Line) : Tame b (b.routeConds ns en l) :=
  tame_foldl (fun x _ => tame_att x _) ns b

end Sys2Proof.Proofs.Keeping
end

section
/-! SUPPORT. The properties that every step keeps, of the whole state: the ports, the two shapes of a command, and the state
right after a reset. -/

namespace Sys2Proof.Proofs.Keeping

open Sys2Proof Sys2Proof.Machine Sys2Proof.Laws

/-- What every step keeps, in the form in which the proofs go through it. -/
structure Kept (s : State) : Prop where
  items : ItemsInRange s.items
  body : GoodIn s.env s.body
  overflow : NoOverflow s.body
  ports : ∀ p, PortKept (s.port p)

theorem kept_iff (s : State) : Inv s ↔ Kept s := by
  constructor
  · rintro ⟨hitems, ⟨hunits, hasks⟩, hwatch, hkeys, ⟨hfence, hqueues⟩, hover, hempty, ha, hb⟩
    refine ⟨hitems, ⟨hunits, hasks, hwatch, hkeys, hfence, fun l => ?_⟩, hover, fun p => ?_⟩
    · obtain ⟨hsend, hin, hrx⟩ := hqueues l
      exact ⟨hsend, hin, hrx, hempty l⟩
    · cases p
      · exact ha
      · exact hb
  · rintro ⟨hitems, hbody, hover, hports⟩
    exact ⟨hitems, ⟨hbody.units, hbody.asks⟩, hbody.watch, hbody.keys,
      ⟨hbody.fence, fun l => ⟨(hbody.link l).sendq, (hbody.link l).inflight, (hbody.link l).rx⟩⟩, hover,
      fun l => (hbody.link l).empty, hports .a, hports .b⟩

/-! ### The two shapes of a command of the blocks -/

theorem Kept.withBody {s : State} (h : Kept s) {b : Body} (hb : GoodIn s.env b) : Kept (s.withBody b) :=
  ⟨h.items, good_finish hb, finish_noOverflow s.env b, fun p => by cases p; exacts [h.ports .a, h.ports .b]⟩

theorem kept_onEvent {s t : State} {due : Bool} {f : Env → Body → Body} (h : Kept s)
    (hf : due = true → GoodIn s.env (f s.env s.body)) (he : onEvent s due f = .next t) : Kept t := by
  unfold onEvent at he
  split at he
  · rename_i hd
    simp only [Bool.and_eq_true] at hd
    cases he
    exact h.withBody (hf hd.2)
  · cases he
    exact h

theorem LinkOk.pop {k : Link} (h : LinkOk k) : LinkOk { k with rx := k.rx.tail } :=
  ⟨h.sendq, h.inflight, h.rx.sublist (List.tail_sublist _), h.empty⟩

/-- R133: a handled frame leaves its slot. -/
theorem tame_popFrame (b : Body) (l : ChanId) : Tame b (b.popFrame l) := tame_modLink fun h => h.pop

theorem Kept.popFrame {s : State} (h : Kept s) (l : ChanId) : Kept { s with body := s.body.popFrame l } where
  items := h.items
  body := h.body.tame (tame_popFrame s.body l)
  overflow m := by
    by_cases hm : l = m
    · subst hm
      rw [Body.popFrame, modLink_same]
      exact h.overflow l
    · rw [Body.popFrame, modLink_other _ _ hm]
      exact h.overflow m
  ports p := by cases p; exacts [h.ports .a, h.ports .b]

theorem kept_takeFrame {s t : State} {l : ChanId} {p : RxFrame → Bool} {act : Env → Body → RxFrame → Option Body} (h : Kept s)
    (ha : ∀ (b b1 : Body) (f : RxFrame), GoodIn s.env b → act s.env b f = some b1 → GoodIn s.env b1)
    (he : takeFrame l p act s = .next t) : Kept t := by
  unfold takeFrame at he
  split at he
  · cases he
    exact h
  · split at he
    · split at he
      · rename_i b1 hb1
        cases he
        exact h.withBody (ha _ b1 _ (h.popFrame l).body hb1)
      · cases he
        exact h.popFrame l
    · cases he
      exact h

/-! ### Ports -/

theorem Kept.setPort {s : State} (h : Kept s) (p : PortId) {r : Port} (hr : PortKept r) : Kept (s.setPort p r) := by
  refine ⟨?_, ?_, ?_, fun q => ?_⟩
  · rw [setPort_items]
    exact h.items
  · rw [env_setPort, setPort_body]
    exact h.body
  · rw [setPort_body]
    exact h.overflow
  · by_cases hq : p = q
    · subst hq
      rw [port_setPort]
      exact hr
    · rw [port_setPort_other s r hq]
      exact h.ports q

theorem Kept.dispatch {s : State} (h : Kept s) : Kept s.dispatch := by
  have henv : s.dispatch.env = s.env := by
    unfold State.dispatch
    split <;> rfl
  refine ⟨?_, ?_, ?_, fun q => ?_⟩
  · rw [dispatch_items]
    exact h.items
  · rw [henv, dispatch_body]
    exact h.body
  · rw [dispatch_body]
    exact h.overflow
  · rw [port_dispatch]
    exact h.ports q

section Ports

variable {r : Port}

theorem portKept_endWrite (h : PortKept r) : PortKept r.endWrite := by
  obtain ⟨hreq, hpos, hwrite, hlost, hgot, hlen⟩ := h
  unfold Port.endWrite
  split
  · exact ⟨hreq, hpos, hwrite, hlost, hgot, hlen⟩
  · exact ⟨hreq, hpos, nofun, nofun, nofun, hlen⟩
  · rename_i x hne hw
    obtain ⟨y, ys, rfl⟩ := List.exists_cons_of_ne_nil (l := x) hne
    exact ⟨fun _ => hlost y ys hw, hpos, nofun, nofun, nofun, fun bs hbs => Option.some.inj hbs ▸ hgot _ hw⟩

theorem portKept_endRead (h : PortKept r) (n : Nat) : PortKept (r.endRead n) := by
  unfold Port.endRead
  split <;> exact h

/-- R154: the bytes of a write under way. -/
theorem portKept_takeBytes (h : PortKept r) (bs : List Byte) : PortKept (r.takeBytes bs) := by
  obtain ⟨hreq, hpos, hwrite, hlost, hgot, hlen⟩ := h
  unfold Port.takeBytes
  split
  · rename_i got _ _ hw
    have hnone : r.req = none := hwrite (by rw [hw]; rfl)
    have hmost : ∀ bs' : List Byte, ∀ x, some ((got ++ bs').take 40) = some x → x.length ≤ 40 := by
      rintro bs' _ ⟨⟩
      exact List.length_take_le _ _
    dsimp only
    split
    · exact ⟨fun _ => rfl, le_rfl, fun _ => hnone, fun _ _ _ => rfl, hmost _, hlen⟩
    · rename_i hne
      obtain ⟨y, ys, rfl⟩ := List.exists_cons_of_ne_nil hne
      exact ⟨hreq, hpos, fun _ => hnone, fun _ _ _ => hlost y ys hw, hmost _, hlen⟩
  · exact ⟨hreq, hpos, hwrite, hlost, hgot, hlen⟩

theorem portKept_startWrite (h : PortKept r) (n : Nat) (addr : BitVec 7) (data : List Byte) :
    PortKept (r.startWrite n addr data) := by
  have hend := portKept_endRead (portKept_endWrite h) n
  unfold Port.startWrite
  dsimp only
  split
  · rename_i hreq
    obtain ⟨h1, h2, -, -, -, h6⟩ := hend
    refine portKept_takeBytes ?_ data
    refine ⟨h1, h2, fun _ => hreq.2, ?_, ?_, h6⟩
    · rintro _ _ ⟨⟩
    · rintro _ ⟨⟩
      exact Nat.zero_le _
  · exact hend

theorem portKept_finishWrite (h : PortKept r) (data : List Byte) : PortKept (r.finishWrite data) := by
  unfold Port.finishWrite
  split
  · exact portKept_endWrite (portKept_takeBytes (r := { r with bus := BusOut.silent }) h data)
  · exact h

theorem portKept_startRead (h : PortKept r) (n : Nat) (addr : BitVec 7) : PortKept (r.startRead n addr) := by
  have hend := portKept_endRead (portKept_endWrite h) n
  unfold Port.startRead
  dsimp only
  split
  · split <;> exact hend
  · exact hend

theorem portKept_readPhase (h : PortKept r) (n : Nat) (start : Option (BitVec 7)) : PortKept (r.readPhase n start) := by
  unfold Port.readPhase
  split
  · exact portKept_startRead h n _
  · split <;> exact h

/-- R151, R156: the read position stays within the reply. -/
theorem portKept_sendBytes (h : PortKept r) (n : Nat) : PortKept (r.sendBytes n) := by
  obtain ⟨hreq, hpos, hwrite, hlost, hgot, hlen⟩ := h
  unfold Port.sendBytes
  split
  · exact ⟨hreq, hpos, hwrite, hlost, hgot, hlen⟩
  · exact ⟨hreq, hpos, hwrite, hlost, hgot, hlen⟩
  · exact ⟨hreq, hpos, hwrite, hlost, hgot, hlen⟩
  · dsimp only
    split
    · exact ⟨fun _ => rfl, le_rfl, hwrite, fun _ _ _ => rfl, hgot, hlen⟩
    · rename_i hlt
      exact ⟨hreq, (Nat.not_le.1 hlt).le, hwrite, hlost, hgot, hlen⟩

theorem portKept_readEnd (h : PortKept r) (n : Nat) (ends : Bool) : PortKept (r.readEnd n ends) := by
  unfold Port.readEnd
  split
  · exact portKept_endRead h n
  · exact h

/-- A port whose reply slot is emptied. -/
theorem portKept_lapse (h : PortKept r) : PortKept r.lapse := by
  obtain ⟨-, -, hwrite, -, hgot, hlen⟩ := h
  exact ⟨fun _ => rfl, le_rfl, hwrite, fun _ _ _ => rfl, hgot, hlen⟩

theorem portKept_controlReset (h : PortKept r) : PortKept r.controlReset := by
  obtain ⟨-, -, -, -, hgot, -⟩ := h
  exact ⟨nofun, le_rfl, fun _ => rfl, fun _ _ _ => rfl, hgot, nofun⟩

/-- A reply placed on a port that has no write under way. -/
theorem portKept_reply (hw : r.writing = none) (frame : List Byte) (n : Nat) :
    PortKept { r with req := none, reply := some frame, readPos := 0, hold := some n } := by
  refine ⟨nofun, Nat.zero_le _, fun _ => rfl, fun b bs h => ?_, fun bs h => ?_, nofun⟩
  · exact absurd (hw.symm.trans h) nofun
  · exact absurd (hw.symm.trans h) nofun

end Ports

/-! ### Requests -/

theorem Kept.placeReply {s : State} (h : Kept s) {p : PortId} (hw : (s.port p).writing = none) (frame : List Byte) :
    Kept (s.placeReply p frame) := by
  have hset := h.setPort p (portKept_reply hw frame s.items.replyHold)
  exact ⟨hset.items, hset.body, hset.overflow, fun q => by cases q; exacts [hset.ports .a, hset.ports .b]⟩

/-- What an answer must be for the reply to keep the properties. -/
structure AnswerOk (s : State) (p : PortId) (a : Answer) : Prop where
  kept : Kept a.state
  writing : (a.state.port p).writing = (s.port p).writing

theorem answerOk_same {s : State} (h : Kept s) (p : PortId) {a : Answer} (ha : a.state = s) : AnswerOk s p a := by
  refine ⟨?_, ?_⟩ <;> rw [ha]
  exact h

theorem answerOk_withBody {s : State} (h : Kept s) (p : PortId) {b : Body} (hb : GoodIn s.env b) {a : Answer}
    (ha : a.state = s.withBody b) : AnswerOk s p a := by
  refine ⟨?_, ?_⟩ <;> rw [ha]
  · exact h.withBody hb
  · cases p <;> rfl

/-- A port whose request is executed has no write under way. -/
theorem writing_of_executing {s : State} (h : Kept s) {p : PortId} {x : Byte × Request} (he : s.executing p = some x) :
    (s.port p).writing = none := by
  obtain ⟨-, -, hwrite, -⟩ := h.ports p
  unfold State.executing at he
  split at he
  · obtain ⟨bs, hreq, -⟩ := Option.bind_eq_some_iff.1 he
    by_contra hne
    rw [hwrite (Option.isSome_iff_ne_none.2 hne)] at hreq
    cases hreq
  · cases he

theorem kept_serve {s t : State} {p : PortId} {act : Request → Option (State → Answer)} (h : Kept s)
    (ha : ∀ rq f, act rq = some f → s.allows p rq = true → AnswerOk s p (f s)) (he : serve p act s = .next t) : Kept t := by
  unfold serve at he
  split at he
  · cases he
    exact h
  · rename_i tag rq hx
    have hw := writing_of_executing h hx
    split at he
    · cases he
      exact h
    · rename_i f hf
      dsimp only at he
      split at he
      · rename_i hallow
        cases he
        have hok := ha rq f hf hallow
        exact hok.kept.placeReply (hok.writing.trans hw) _
      · cases he
        exact h.placeReply hw _

theorem kept_unparsedRequest {s t : State} (h : Kept s) {p : PortId} (he : execUnparsedRequest p s = .next t) : Kept t := by
  unfold execUnparsedRequest at he
  split at he
  · cases he
    exact h
  · rename_i bs hreq
    split at he
    · cases he
      refine h.placeReply ?_ _
      obtain ⟨-, -, hwrite, -⟩ := h.ports p
      by_contra hne
      rw [hwrite (Option.isSome_iff_ne_none.2 hne)] at hreq
      cases hreq
    · cases he
      exact h

/-! ### Resets and the clock -/

/-- With no channel in TEST no unit is in use, so the properties hold under any ceiling. -/
theorem Good.under {n : Nat} {b : Body} (hb : Good n b) (h : ∀ c : ChanId, b.chan[c].state ≠ .test) (m : Nat) : Good m b := by
  refine ⟨?_, hb.asks, hb.watch, hb.keys, hb.fence, hb.link⟩
  have hzero : ∀ c, heldWeight b c = 0 := fun c => by
    rw [heldWeight, hb.no_admission (h c)]
    rfl
  have hsum : b.unitsInUse = 0 := by
    rw [unitsInUse_eq, List.sum_eq_zero_iff]
    intro x hx
    obtain ⟨c, -, rfl⟩ := List.mem_map.1 hx
    exact hzero c
  rw [hsum]
  exact Nat.zero_le m

theorem linkOk_initial : LinkOk Link.initial :=
  ⟨Nat.zero_le _, Nat.zero_le _, List.Pairwise.nil, fun _ => ⟨rfl, rfl⟩⟩

theorem good_initial (n : Nat) : Good n Body.initial := by
  have hchan : ∀ c : ChanId, Body.initial.chan[c] = Channel.initial := fun c => by simp [Body.initial]
  have hdir : ∀ e : EntryNo, Body.initial.dir[e].live = none := fun e => by simp [Body.initial, Entry.initial]
  have hwatch : ∀ i : WatchNo, Body.initial.watch[i] = none := fun i => by simp [Body.initial]
  refine Good.under (n := Body.initial.unitsInUse) ⟨le_rfl, fun c hc => ?_, ⟨fun i w hw => ?_, fun i j w v hw => ?_⟩,
    ⟨fun i j r q hr => ?_, fun i j r q hr => ?_⟩, fun f => ?_, fun l => ?_⟩ (fun c => ?_) n
  · rw [hchan] at hc
    exact absurd rfl hc
  · exact absurd ((hwatch i).symm.trans hw) nofun
  · exact absurd ((hwatch i).symm.trans hw) nofun
  · exact absurd ((hdir i).symm.trans hr) nofun
  · exact absurd ((hdir i).symm.trans hr) nofun
  · simp [Body.initial, FenceUnit.initial]
  · have hlink : Body.initial.link[l] = Link.initial := by simp [Body.initial]
    rw [hlink]
    exact linkOk_initial
  · rw [hchan]
    exact nofun

theorem noOverflow_initial : NoOverflow Body.initial := fun l => by simp [Body.initial, Link.initial]

theorem itemsInRange_default : ItemsInRange Items.default := by
  unfold ItemsInRange
  decide

theorem portKept_initial (addr : BitVec 7) : PortKept (Port.initial addr) := by
  refine ⟨fun _ => rfl, le_rfl, fun _ => rfl, fun _ _ _ => rfl, nofun, nofun⟩

theorem kept_powerOnReset {s t : State} (he : execPowerOnReset s = .next t) : Kept t := by
  cases he
  exact ⟨itemsInRange_default, good_initial _, noOverflow_initial, fun p => by cases p <;> exact portKept_initial _⟩

theorem released_link (l : ChanId) : Body.released.link[l] = Link.released l := by
  fin_cases l <;> rfl

theorem tame_released : Tame Body.initial Body.released where
  watch _ _ hw := hw
  chan _ := Calm.refl _
  fence _ := le_rfl
  dir _ r hr := ⟨r, hr, rfl⟩
  link l _ := by
    rw [released_link]
    exact ⟨Nat.zero_le _, Nat.zero_le _, List.Pairwise.nil, fun _ => ⟨rfl, rfl⟩⟩

theorem kept_reset : Kept State.reset where
  items := itemsInRange_default
  body := (good_initial _).tame tame_released
  overflow l := by
    have hlink : State.reset.body.link[l] = Link.released l := released_link l
    rw [hlink]
    rfl
  ports p := by cases p <;> exact portKept_initial _

/-- A change of the training timers and lanes alone. -/
theorem startLinks_keeps (refclk : Bool) {b : Body} (ho : NoOverflow b) :
    Tame b (b.startLinks refclk) ∧ NoOverflow (b.startLinks refclk) := by
  refine foldl_keeps (P := fun x => Tame b x ∧ NoOverflow x) (fun x l hx => ⟨?_, fun m => ?_⟩) allChans b ⟨Tame.refl b, ho⟩
  · exact hx.1.trans (tame_modLink fun h => ⟨h.sendq, h.inflight, h.rx, h.empty⟩)
  · by_cases hm : l = m
    · subst hm
      rw [modLink_same]
      exact hx.2 l
    · rw [modLink_other _ _ hm]
      exact hx.2 m

theorem kept_resetRelease {s t : State} (h : Kept s) {st : Straps} (he : execResetRelease st s = .next t) : Kept t := by
  unfold execResetRelease at he
  split at he
  · cases he
    obtain ⟨htame, hover⟩ := startLinks_keeps s.refclk h.overflow
    exact ⟨h.items, h.body.tame htame, hover, fun p => by cases p; exacts [h.ports .a, h.ports .b]⟩
  · cases he
    exact h

theorem idleLanes_link (b : Body) (l : ChanId) : b.idleLanes.link[l] = { b.link[l] with lane := none } := by
  simp [Body.idleLanes]

theorem tame_idleLanes (b : Body) : Tame b b.idleLanes where
  watch _ _ hw := hw
  chan _ := Calm.refl _
  fence _ := le_rfl
  dir _ r hr := ⟨r, hr, rfl⟩
  link l h := by
    rw [idleLanes_link]
    exact ⟨h.sendq, h.inflight, h.rx, h.empty⟩

theorem kept_refclkStop {s t : State} (h : Kept s) (he : execRefclkStop s = .next t) : Kept t := by
  unfold execRefclkStop at he
  split at he
  · cases he
    refine ⟨h.items, h.body.tame (tame_idleLanes s.body), fun l => ?_, fun p => ?_⟩
    · rw [idleLanes_link]
      exact h.overflow l
    · cases p
      · exact portKept_endRead (h.ports .a) _
      · exact portKept_endRead (h.ports .b) _
  · cases he
    exact h

theorem kept_refclkResume {s t : State} (h : Kept s) (he : execRefclkResume s = .next t) : Kept t := by
  unfold execRefclkResume at he
  split at he
  · cases he
    exact h
  · cases he
    refine Kept.dispatch ⟨h.items, h.body, h.overflow, fun p => ?_⟩
    cases p
    · exact portKept_endWrite (h.ports .a)
    · exact portKept_endWrite (h.ports .b)

/-! ### A millisecond -/

theorem tick_chan (b : Body) (c : ChanId) : b.tick.chan[c] = b.chan[c].tick := by simp [Body.tick]

theorem tick_link (b : Body) (l : ChanId) : b.tick.link[l] = b.link[l].tick := by simp [Body.tick]

theorem tick_fence (b : Body) (f : Fin 8) : b.tick.fence[f] = b.fence[f].tick := by simp [Body.tick]

theorem tame_tick (b : Body) : Tame b b.tick where
  watch _ _ hw := hw
  chan c := by
    rw [tick_chan]
    exact .inr ⟨rfl, rfl⟩
  fence f := by
    rw [tick_fence]
    exact le_rfl
  dir _ r hr := ⟨r, hr, rfl⟩
  link l h := by
    rw [tick_link]
    refine ⟨h.sendq, ?_, h.rx, fun hs => ?_⟩
    · simpa [Link.tick] using h.inflight
    · simpa [Link.tick] using h.empty hs

theorem kept_idle {s : State} (h : Kept s) : Kept s.idle := by
  unfold State.idle
  split
  · refine ⟨h.items, h.body.tame (tame_tick s.body), fun l => ?_, fun p => ?_⟩
    · show (s.body.tick.link[l]).overflow = false
      rw [tick_link]
      exact h.overflow l
    · cases p
      · exact h.ports .a
      · exact h.ports .b
  · exact h

end Sys2Proof.Proofs.Keeping
end

section
/-! SUPPORT. The properties that every step keeps: each command, the step, and the statements. -/

namespace Sys2Proof.Proofs.Keeping

open Sys2Proof Sys2Proof.Machine Sys2Proof.Laws

/-! ### Requests that read -/

section Requests

variable {s t : State} {p : PortId}

/-- A request whose answer leaves the state as it is. -/
theorem kept_reading {act : Request → Option (State → Answer)} (h : Kept s)
    (ha : ∀ rq f, act rq = some f → (f s).state = s) (he : serve p act s = .next t) : Kept t :=
  kept_serve h (fun rq f hf _ => answerOk_same h p (ha rq f hf)) he

theorem kept_getStatus (h : Kept s) (he : execGetStatus p s = .next t) : Kept t := by
  refine kept_reading h (fun rq f hf => ?_) he
  split at hf <;> cases hf
  rfl

theorem kept_getChannel (h : Kept s) (he : execGetChannel p s = .next t) : Kept t := by
  refine kept_reading h (fun rq f hf => ?_) he
  split at hf <;> cases hf
  dsimp only
  split <;> rfl

theorem kept_getInventory (h : Kept s) (he : execGetInventory p s = .next t) : Kept t := by
  refine kept_reading h (fun rq f hf => ?_) he
  split at hf <;> cases hf
  dsimp only
  split
  · rfl
  · split
    · rfl
    · split
      · rfl
      · unfold State.inventoryAnswer
        split
        · rfl
        · split <;> split <;> rfl

theorem kept_readEntry (h : Kept s) (he : execReadEntry p s = .next t) : Kept t := by
  refine kept_reading h (fun rq f hf => ?_) he
  split at hf <;> cases hf
  dsimp only
  split <;> rfl

theorem kept_find (h : Kept s) (he : execFind p s = .next t) : Kept t := by
  refine kept_reading h (fun rq f hf => ?_) he
  split at hf <;> cases hf
  dsimp only
  split
  · rfl
  · split <;> rfl

theorem kept_nextEntry (h : Kept s) (he : execNextEntry p s = .next t) : Kept t := by
  refine kept_reading h (fun rq f hf => ?_) he
  split at hf <;> cases hf
  dsimp only
  split
  · split <;> rfl
  · rfl

theorem kept_readWatch (h : Kept s) (he : execReadWatch p s = .next t) : Kept t := by
  refine kept_reading h (fun rq f hf => ?_) he
  split at hf <;> cases hf
  dsimp only
  split
  · rfl
  · split
    · rfl
    · split <;> rfl

theorem kept_findWatch (h : Kept s) (he : execFindWatch p s = .next t) : Kept t := by
  refine kept_reading h (fun rq f hf => ?_) he
  split at hf <;> cases hf
  dsimp only
  split
  · rfl
  · split
    · rfl
    · split <;> rfl

theorem kept_readCause (h : Kept s) (he : execReadCause p s = .next t) : Kept t := by
  refine kept_reading h (fun rq f hf => ?_) he
  split at hf <;> cases hf
  rfl

theorem kept_readPlan (h : Kept s) (he : execReadPlan p s = .next t) : Kept t := by
  refine kept_reading h (fun rq f hf => ?_) he
  split at hf <;> cases hf
  dsimp only
  split <;> rfl

theorem kept_readConfig (h : Kept s) (he : execReadConfig p s = .next t) : Kept t := by
  refine kept_reading h (fun rq f hf => ?_) he
  split at hf <;> cases hf
  dsimp only
  split
  · rfl
  · split <;> rfl

/-! ### Requests that change the blocks -/

/-- A request whose answer leaves the state as it is, or with the blocks changed and the change ended. -/
theorem kept_changing {act : Request → Option (State → Answer)} (h : Kept s)
    (ha : ∀ rq f, act rq = some f → (f s).state = s ∨ ∃ b, GoodIn s.env b ∧ (f s).state = s.withBody b)
    (he : serve p act s = .next t) : Kept t := by
  refine kept_serve h (fun rq f hf _ => ?_) he
  obtain hsame | ⟨b, hb, hst⟩ := ha rq f hf
  · exact answerOk_same h p hsame
  · exact answerOk_withBody h p hb hst

theorem kept_getLink (h : Kept s) (he : execGetLink p s = .next t) : Kept t := by
  refine kept_serve h (fun rq f hf _ => ?_) he
  split at hf <;> cases hf
  dsimp only
  split
  · exact answerOk_same h p rfl
  · rename_i l _
    have htame : Tame s.body (s.body.modLink l fun k => { k with gap := false }) :=
      tame_modLink fun hl => ⟨hl.sendq, hl.inflight, hl.rx, hl.empty⟩
    refine ⟨⟨h.items, h.body.tame htame, fun m => ?_, fun q => ?_⟩, ?_⟩
    · show ((s.body.modLink l fun k => { k with gap := false }).link[m]).overflow = false
      by_cases hm : l = m
      · subst hm
        rw [modLink_same]
        exact h.overflow l
      · rw [modLink_other _ _ hm]
        exact h.overflow m
    · cases q
      exacts [h.ports .a, h.ports .b]
    · cases p <;> rfl

theorem kept_seed (h : Kept s) (he : execSeed p s = .next t) : Kept t := by
  refine kept_changing h (fun rq f hf => ?_) he
  split at hf <;> cases hf
  dsimp only
  split
  · split
    · unfold State.seedAnswer
      dsimp only
      split
      · exact .inl rfl
      · split
        · exact .inl rfl
        · rename_i hx
          split
          · exact .inl rfl
          · rename_i ht
            split
            · exact .inl rfl
            · split
              · exact .inl rfl
              · have hnew := keyNew_seed (by simpa using hx) (by simpa using ht)
                exact .inr ⟨_, (good_seedEntry h.body hnew _ _ _).tame (tame_sendInReady _ _ _), rfl⟩
    · exact .inl rfl
  · exact .inl rfl

/-- The key of a row operand is a row's. -/
theorem validKey_row {b : Body} {n bank row : Nat} {k : Key} (h : b.validKey ⟨n, bank, 0, row⟩ = some k) : k.row ≠ none := by
  obtain ⟨-, -, -, ⟨-, hrow, -⟩ | ⟨hscope, -⟩, -⟩ := (validKey_iff _ _ _).1 h
  · rw [hrow]
    exact Option.some_ne_none _
  · cases hscope

theorem kept_addRepair (h : Kept s) (he : execAddRepair p s = .next t) : Kept t := by
  refine kept_changing h (fun rq f hf => ?_) he
  split at hf <;> cases hf
  dsimp only
  split
  · exact .inl rfl
  · rename_i k hk
    unfold State.addAnswer
    dsimp only
    split
    · exact .inl rfl
    · split
      · exact .inl rfl
      · rename_i hx
        split
        · exact .inl rfl
        · rename_i hf
          split
          · exact .inl rfl
          · rename_i hq
            split
            · exact .inl rfl
            · split
              · exact .inl rfl
              · have hnew := keyNew_row (validKey_row hk) (by simpa using hx) (by simpa using hf)
                refine .inr ⟨_, good_addOnward (good_createRow h.body hnew _ _ _) (fun hs => ?_) _, rfl⟩
                rw [queueFull_of_fence (b := s.body) (by rfl)]
                by_contra hfull
                exact hq ⟨hs, by simpa using hfull⟩

theorem kept_retire (h : Kept s) (he : execRetire p s = .next t) : Kept t := by
  refine kept_changing h (fun rq f hf => ?_) he
  split at hf <;> cases hf
  dsimp only
  split
  · exact .inl rfl
  · unfold State.retireAnswer
    split
    · exact .inl rfl
    · split
      · exact .inl rfl
      · split
        · exact .inl rfl
        · rename_i hr
          exact .inr ⟨_, good_retire h.body hr, rfl⟩

theorem kept_refilled (h : Kept s) (he : execRefilled p s = .next t) : Kept t := by
  refine kept_changing h (fun rq f hf => ?_) he
  split at hf <;> cases hf
  dsimp only
  split
  · exact .inl rfl
  · unfold State.refilledAnswer
    split
    · exact .inl rfl
    · split
      · exact .inl rfl
      · split
        · exact .inl rfl
        · exact .inr ⟨_, h.body.tame (tame_refilled _ _ _), rfl⟩

theorem kept_startTest (h : Kept s) (he : execStartTest p s = .next t) : Kept t := by
  refine kept_changing h (fun rq f hf => ?_) he
  split at hf <;> cases hf
  dsimp only
  split
  · exact .inl rfl
  · unfold State.startAnswer
    split
    · exact .inl rfl
    · exact .inr ⟨_, h.body.tame (tame_foldl (tame_enterDiscover s.env) _ _), rfl⟩

theorem kept_stopTest (h : Kept s) (he : execStopTest p s = .next t) : Kept t := by
  refine kept_changing h (fun rq f hf => ?_) he
  split at hf <;> cases hf
  dsimp only
  split
  · exact .inl rfl
  · exact .inr ⟨_, good_stopChannels h.body _, rfl⟩

theorem tame_releaseReady (b : Body) (c : ChanId) : Tame b (b.releaseReady c) := by
  unfold Body.releaseReady
  refine Tame.trans (tame_offer b c .release (.release .ready false)) ?_
  exact tame_modChan_same fun _ => ⟨rfl, rfl⟩

theorem kept_release (h : Kept s) (he : execRelease p s = .next t) : Kept t := by
  refine kept_changing h (fun rq f hf => ?_) he
  split at hf <;> cases hf
  dsimp only
  split
  · exact .inl rfl
  · split
    · refine .inr ⟨_, h.body.tame ?_, rfl⟩
      unfold Body.releaseReady
      exact tame_releaseReady _ _
    · exact .inl rfl

theorem kept_clearAttention (h : Kept s) (he : execClearAttention p s = .next t) : Kept t := by
  refine kept_changing h (fun rq f hf => ?_) he
  split at hf <;> cases hf
  dsimp only
  split
  · exact .inl rfl
  · exact .inr ⟨_, h.body.tame (tame_clearConds _ _), rfl⟩

theorem kept_setAttention (h : Kept s) (he : execSetAttention p s = .next t) : Kept t := by
  refine kept_changing h (fun rq f hf => ?_) he
  split at hf <;> cases hf
  dsimp only
  split
  · exact .inr ⟨_, h.body.tame (tame_routeConds _ _ _ _), rfl⟩
  · exact .inl rfl

/-! ### Plan, configuration, grants and the control reset -/

theorem kept_writePlan (h : Kept s) (he : execWritePlan p s = .next t) : Kept t := by
  refine kept_serve h (fun rq f hf _ => ?_) he
  split at hf <;> cases hf
  dsimp only
  split
  · split
    · exact answerOk_same h p rfl
    · refine ⟨⟨h.items, h.body, h.overflow, fun q => ?_⟩, ?_⟩
      · cases q
        exacts [h.ports .a, h.ports .b]
      · cases p <;> rfl
  · exact answerOk_same h p rfl

theorem kept_grant (h : Kept s) (he : execGrant p s = .next t) : Kept t := by
  refine kept_serve h (fun rq f hf _ => ?_) he
  split at hf <;> cases hf
  dsimp only
  split
  · refine ⟨⟨h.items, h.body, h.overflow, fun q => ?_⟩, ?_⟩
    · cases q
      exacts [h.ports .a, h.ports .b]
    · cases p <;> rfl
  · exact answerOk_same h p rfl

theorem clamp_range {lo hi : Nat} (h : lo ≤ hi) (v : Nat) : lo ≤ clamp (lo, hi) v ∧ clamp (lo, hi) v ≤ hi := by
  simp only [clamp]
  omega

/-- R166: an item written with a value of its range keeps every item in its range. -/
theorem itemsInRange_put {i : Items} (h : ItemsInRange i) {n : Nat} {lo hi : Nat} (hn : itemRanges[n]? = some (lo, hi))
    {v : Nat} (hv : lo ≤ v ∧ v ≤ hi) : ItemsInRange (i.put n v) := by
  have hlt : n < 14 := (List.getElem?_eq_some_iff.1 hn).1
  unfold ItemsInRange at h ⊢
  interval_cases n <;> cases hn <;> simp only [Items.put] <;> omega

theorem itemRanges_le {n lo hi : Nat} (hn : itemRanges[n]? = some (lo, hi)) : lo ≤ hi := by
  have hall : ∀ r ∈ itemRanges, r.1 ≤ r.2 := by decide
  exact hall (lo, hi) (List.mem_of_getElem? hn)

theorem put_powerCeiling (i : Items) {n : Nat} (h : n ≠ 1) (v : Nat) : (i.put n v).powerCeiling = i.powerCeiling := by
  unfold Items.put
  split
  · rfl
  · exact absurd rfl h
  all_goals rfl

theorem anyTest_iff (b : Body) : b.anyTest = true ↔ ∃ c : ChanId, b.chan[c].state = .test := by
  simp [Body.anyTest, allChans]

theorem kept_setConfig (h : Kept s) (he : execSetConfig p s = .next t) : Kept t := by
  refine kept_serve h (fun rq f hf _ => ?_) he
  split at hf <;> cases hf
  rename_i n v _
  dsimp only
  split
  · exact answerOk_same h p rfl
  · rename_i range hr
    obtain ⟨lo, hi⟩ := range
    split
    · exact answerOk_same h p rfl
    · rename_i hlock
      have hbody : Good (s.items.put n (clamp (lo, hi) v)).powerCeiling s.body := by
        by_cases hn : n = 1
        · refine h.body.under (fun c hc => hlock ⟨hn, (anyTest_iff _).2 ⟨c, hc⟩⟩) _
        · rw [put_powerCeiling _ hn]
          exact h.body
      refine ⟨⟨itemsInRange_put h.items hr (clamp_range (itemRanges_le hr) v), ?_, finish_noOverflow _ _, fun q => ?_⟩, ?_⟩
      · exact good_finish hbody
      · cases q
        exacts [h.ports .a, h.ports .b]
      · cases p <;> rfl

/-- No channel is in TEST. -/
def NoTest (b : Body) : Prop := ∀ c : ChanId, b.chan[c].state ≠ .test

theorem settle_states (b : Body) (c : ChanId) : SameStates b (b.settle c) := by
  obtain ⟨-, -, -, -, -, hchan⟩ := settle_settled b c
  intro d
  rw [(hchan d).1]

/-- R84: a channel that is stopped leaves TEST, and every other keeps its state. -/
theorem stopChannel_state (b : Body) (c d : ChanId) : (b.stopChannel c).chan[d].state ≠ .test ∨
    (d ≠ c ∧ (b.stopChannel c).chan[d].state = b.chan[d].state) := by
  unfold Body.stopChannel
  dsimp only
  rw [settle_states _ c d]
  by_cases hd : d = c
  · subst hd
    rw [modChan_same]
    left
    dsimp only
    split <;> exact nofun
  · rw [modChan_other _ _ (Ne.symm hd)]
    exact .inr ⟨hd, rfl⟩

theorem noTest_foldl_stop : ∀ (cs : List ChanId) (b : Body), (∀ c, b.chan[c].state = .test → c ∈ cs) →
    NoTest (cs.foldl Body.stopChannel b)
  | [], b, h => fun c hc => List.not_mem_nil (h c hc)
  | d :: cs, b, h => by
    refine noTest_foldl_stop cs (b.stopChannel d) fun c hc => ?_
    obtain hne | ⟨hcd, hsame⟩ := stopChannel_state b d c
    · exact absurd hc hne
    · rw [hsame] at hc
      exact (List.mem_cons.1 (h c hc)).resolve_left hcd

theorem noTest_stopAll (env : Env) (b : Body) : NoTest (b.stopChannels env allChans) := by
  have hstop : NoTest ((b.inTest allChans).foldl Body.stopChannel b) :=
    noTest_foldl_stop _ b fun c hc => List.mem_filter.2 ⟨List.mem_finRange c, by simpa using hc⟩
  unfold Body.stopChannels
  dsimp only
  split
  · intro c
    rw [((passes_scan env _).2 c).1]
    exact hstop c
  · exact hstop

theorem afterLoss_ne_test (st : ChanState) : ChanState.afterLoss st ≠ .test := by cases st <;> exact nofun

theorem noTest_closeOverflows (env : Env) {b : Body} (h : NoTest b) (n : Nat) : NoTest (b.closeOverflows env n) := by
  refine closeOverflows_keeps (P := NoTest) env (fun x c hx _ d => ?_) n b h
  obtain ⟨-, hown, hother⟩ := linkDown_others env x c Counters.sendOverflow
  by_cases hd : d = c
  · subst hd
    rw [hown]
    exact afterLoss_ne_test _
  · rw [(hother d hd).1]
    exact hx d

/-- R171: the state after a control reset. -/
theorem kept_controlState (h : Kept s) : Kept s.controlState where
  items := itemsInRange_default
  body := by
    have hstop := good_closeOverflows (good_stopChannels h.body allChans) 12
    have hunder := hstop.under (noTest_closeOverflows s.env (noTest_stopAll s.env s.body) 12) Items.default.powerCeiling
    exact (hunder.tame (tame_att _ Attention.initial)).tame (tame_refreshLevels _ _)
  overflow := closeOverflows_noOverflow s.env 12 _ (openLinks_le _)
  ports q := by
    cases q
    exacts [h.ports .a, h.ports .b]

theorem kept_controlReset (h : Kept s) (he : execControlReset p s = .next t) : Kept t := by
  refine kept_serve h (fun rq f hf hallow => ?_) he
  split at hf <;> cases hf
  have hstate := kept_controlState h
  refine ⟨⟨hstate.items, hstate.body, hstate.overflow, fun q => ?_⟩, ?_⟩
  · cases q
    · exact hstate.ports .a
    · exact portKept_controlReset (hstate.ports .b)
  · cases p
    · rfl
    · cases hallow

end Requests

/-! ### Every command -/

theorem kept_drained {s t : State} {l : ChanId} (h : Kept s) (he : execDrained l s = .next t) : Kept t := by
  refine kept_takeFrame h (fun b b1 f hb ha => ?_) he
  obtain ⟨o, -, rfl⟩ := Option.map_eq_some_iff.1 ha
  exact good_drain hb l o

theorem stepOf_test {b : Body} {c : ChanId} {token : Byte} {r : Running} (h : b.stepOf c token = some r) :
    b.chan[c].state = .test := by
  unfold Body.stepOf at h
  split at h
  · assumption
  · cases h

theorem kept_stepDone {s t : State} {l : ChanId} (h : Kept s) (he : execStepDone l s = .next t) : Kept t := by
  refine kept_takeFrame h (fun b b1 f hb ha => ?_) he
  obtain ⟨r, hr, rfl⟩ := Option.map_eq_some_iff.1 ha
  exact good_stepOutcome hb (stepOf_test hr) _ _

theorem kept_fail {s t : State} {l : ChanId} (h : Kept s) (he : execFail l s = .next t) : Kept t := by
  refine kept_takeFrame h (fun b b1 f hb ha => ?_) he
  obtain ⟨r, -, hr⟩ := Option.bind_eq_some_iff.1 ha
  exact good_takeFail hb hr

theorem kept_malformedFrame {s t : State} {l : ChanId} (h : Kept s) (he : execMalformedFrame l s = .next t) : Kept t := by
  refine kept_takeFrame h (fun b b1 f hb ha => ?_) he
  cases ha
  exact hb.tame (tame_modLink fun hl => ⟨hl.sendq, hl.inflight, hl.rx, hl.empty⟩)

theorem kept_query {s t : State} {l : ChanId} (h : Kept s) (he : execQuery l s = .next t) : Kept t := by
  refine kept_takeFrame h (fun b b1 f hb ha => ?_) he
  cases ha
  exact hb.tame (tame_offer _ _ _ _)

theorem kept_fenceTimerExpiry {s t : State} {c : ChanId} (h : Kept s) (he : execFenceTimerExpiry c s = .next t) : Kept t := by
  unfold execFenceTimerExpiry at he
  split at he
  · exact kept_onEvent h (fun _ => good_fenceExpired h.body c _) he
  · cases he
    exact h

theorem kept_decay {s t : State} (h : Kept s) (he : execDecay s = .next t) : Kept t := by
  unfold execDecay at he
  split at he
  · cases he
    exact ⟨h.items, good_decay h.body, h.overflow, fun p => by cases p; exacts [h.ports .a, h.ports .b]⟩
  · cases he
    exact h

theorem kept_replyHoldExpiry {s t : State} {p : PortId} (h : Kept s) (he : execReplyHoldExpiry p s = .next t) : Kept t := by
  unfold execReplyHoldExpiry at he
  split at he <;> cases he
  · exact h.setPort p (portKept_lapse (h.ports p))
  · exact h

theorem kept_writeStart {s t : State} {p : PortId} {addr : BitVec 7} {data : List Byte} (h : Kept s)
    (he : execRequestWriteStart p addr data s = .next t) : Kept t := by
  unfold execRequestWriteStart at he
  split at he <;> cases he
  · exact (h.setPort p (portKept_startWrite (h.ports p) _ addr data)).dispatch
  · exact h.setPort p (h.ports p)

theorem kept_writeEnd {s t : State} {p : PortId} {data : List Byte} (h : Kept s)
    (he : execRequestWriteEnd p data s = .next t) : Kept t := by
  unfold execRequestWriteEnd at he
  split at he <;> cases he
  · exact (h.setPort p (portKept_finishWrite (h.ports p) data)).dispatch
  · exact h

theorem kept_i2cRead {s t : State} {p : PortId} {start : Option (BitVec 7)} {n : Nat} {ends : Bool} (h : Kept s)
    (he : execI2cRead p start n ends s = .next t) : Kept t := by
  unfold execI2cRead at he
  dsimp only at he
  split at he
  · cases he
    exact (h.setPort p (portKept_readEnd (portKept_sendBytes (portKept_readPhase (h.ports p) _ start) n) _ ends)).dispatch
  · split at he <;> cases he
    · exact h.setPort p (h.ports p)
    · exact h

section Events

variable {s t : State} {l : ChanId}

theorem kept_trainingTimerExpiry (h : Kept s) (he : execTrainingTimerExpiry l s = .next t) : Kept t := by
  have hinit : Tame s.body (s.body.modLink l (·.sendInit l)) :=
    tame_modLink fun hl => ⟨hl.sendq, hl.inflight, hl.rx, hl.empty⟩
  exact kept_onEvent h (fun _ => h.body.tame hinit) he

theorem kept_lossOfSignal (h : Kept s) (he : execLossOfSignal l s = .next t) : Kept t :=
  kept_onEvent h (fun _ => good_linkDown h.body l _) he

theorem kept_ackTimerExpiry {seq : BitVec 4} (h : Kept s) (he : execAckTimerExpiry l seq s = .next t) : Kept t :=
  kept_onEvent h (fun _ => good_linkDown h.body l _) he

theorem kept_frameSent (h : Kept s) (he : execFrameSent l s = .next t) : Kept t := by
  have hidle : Tame s.body (s.body.modLink l fun k => { k with lane := none }) :=
    tame_modLink fun hl => ⟨hl.sendq, hl.inflight, hl.rx, hl.empty⟩
  exact kept_onEvent h (fun _ => (h.body.tame hidle).tame (tame_advanceLane s.env _ l)) he

theorem kept_frameArrival {bytes : List Byte} (h : Kept s) (he : execFrameArrival l bytes s = .next t) : Kept t :=
  kept_onEvent h (fun _ => good_receive h.body l bytes) he

theorem kept_hello (h : Kept s) (he : execHello l s = .next t) : Kept t :=
  kept_takeFrame h (fun _ _ _ hb ha => good_takeHello hb ha) he

theorem kept_geometry (h : Kept s) (he : execGeometry l s = .next t) : Kept t :=
  kept_takeFrame h (fun _ _ _ hb ha => good_takeGeometry hb ha) he

theorem kept_ack (h : Kept s) (he : execAck l s = .next t) : Kept t :=
  kept_takeFrame h (fun _ _ _ hb ha => good_takeAck hb ha) he

theorem kept_report (h : Kept s) (he : execReport l s = .next t) : Kept t :=
  kept_takeFrame h (fun _ _ _ hb ha => good_takeReport hb ha) he

theorem kept_linkWaitExpiry (h : Kept s) (he : execLinkWaitExpiry l s = .next t) : Kept t :=
  kept_onEvent h (fun _ => good_failChannel h.body l _) he

theorem kept_geometryWaitExpiry (h : Kept s) (he : execGeometryWaitExpiry l s = .next t) : Kept t :=
  kept_onEvent h (fun _ => good_failChannel h.body l _) he

theorem kept_stepTimerExpiry (h : Kept s) (he : execStepTimerExpiry l s = .next t) : Kept t :=
  kept_onEvent h (fun _ => good_failChannel h.body l _) he

theorem kept_budgetExpiry (h : Kept s) (he : execBudgetExpiry l s = .next t) : Kept t :=
  kept_onEvent h (fun _ => h.body) he

end Events

/-- Every command keeps the properties. -/
theorem kept_exec {s t : State} (i : Instr) (h : Kept s) (he : exec i s = .next t) : Kept t := by
  cases i with
  | powerOnReset => exact kept_powerOnReset he
  | resetRelease st => exact kept_resetRelease h he
  | refclkStop => exact kept_refclkStop h he
  | refclkResume => exact kept_refclkResume h he
  | requestWriteStart p addr data => exact kept_writeStart h he
  | requestWriteEnd p data => exact kept_writeEnd h he
  | i2cRead p start n ends => exact kept_i2cRead h he
  | replyHoldExpiry p => exact kept_replyHoldExpiry h he
  | unparsedRequest p => exact kept_unparsedRequest h he
  | getStatus p => exact kept_getStatus h he
  | getChannel p => exact kept_getChannel h he
  | getLink p => exact kept_getLink h he
  | getInventory p => exact kept_getInventory h he
  | readEntry p => exact kept_readEntry h he
  | find p => exact kept_find h he
  | nextEntry p => exact kept_nextEntry h he
  | readWatch p => exact kept_readWatch h he
  | findWatch p => exact kept_findWatch h he
  | readCause p => exact kept_readCause h he
  | readPlan p => exact kept_readPlan h he
  | readConfig p => exact kept_readConfig h he
  | seed p => exact kept_seed h he
  | addRepair p => exact kept_addRepair h he
  | retire p => exact kept_retire h he
  | refilled p => exact kept_refilled h he
  | startTest p => exact kept_startTest h he
  | stopTest p => exact kept_stopTest h he
  | release p => exact kept_release h he
  | writePlan p => exact kept_writePlan h he
  | setConfig p => exact kept_setConfig h he
  | clearAttention p => exact kept_clearAttention h he
  | setAttention p => exact kept_setAttention h he
  | grant p => exact kept_grant h he
  | controlReset p => exact kept_controlReset h he
  | trainingTimerExpiry l => exact kept_trainingTimerExpiry h he
  | lossOfSignal l => exact kept_lossOfSignal h he
  | ackTimerExpiry l seq => exact kept_ackTimerExpiry h he
  | frameSent l => exact kept_frameSent h he
  | frameArrival l bytes => exact kept_frameArrival h he
  | malformedFrame l => exact kept_malformedFrame h he
  | hello l => exact kept_hello h he
  | geometry l => exact kept_geometry h he
  | stepDone l => exact kept_stepDone h he
  | fail l => exact kept_fail h he
  | ack l => exact kept_ack h he
  | drained l => exact kept_drained h he
  | report l => exact kept_report h he
  | query l => exact kept_query h he
  | linkWaitExpiry c => exact kept_linkWaitExpiry h he
  | geometryWaitExpiry c => exact kept_geometryWaitExpiry h he
  | stepTimerExpiry c => exact kept_stepTimerExpiry h he
  | fenceTimerExpiry c => exact kept_fenceTimerExpiry h he
  | decay => exact kept_decay h he
  | budgetExpiry c => exact kept_budgetExpiry h he

/-- Every step keeps the properties, whatever command stands at the front of the queue. -/
theorem inv_step {s t : State} (h : Inv s) (he : step s = .next t) : Inv t := by
  rw [kept_iff] at h ⊢
  unfold step at he
  split at he
  · rename_i c rest _
    exact kept_exec c (s := { s with pending := rest })
      ⟨h.items, h.body, h.overflow, fun p => by cases p; exacts [h.ports .a, h.ports .b]⟩ he
  · cases he
    exact kept_idle h

/-- Settles O59: the properties of tables and ports are among those that every step keeps. -/
theorem stepKeepsTablesSound : Obligations.StepKeepsTablesSound := by
  unfold Obligations.StepKeepsTablesSound
  intro s t h he
  obtain ⟨hitems, -, hwatch, hkeys, -, -, -, ha, hb⟩ := inv_step h he
  exact ⟨hitems, hwatch, hkeys, ha, hb⟩

/-- Settles O60: the properties of power, queues and links are among those that every step keeps. -/
theorem stepKeepsQueuesAndPower : Obligations.StepKeepsQueuesAndPower := by
  unfold Obligations.StepKeepsQueuesAndPower
  intro s t h he
  obtain ⟨-, hpower, -, -, hqueues, hover, hempty, -, -⟩ := inv_step h he
  exact ⟨hpower, hqueues, hover, hempty⟩

/-- Settles O58: the state right after reset has the properties that the proofs of the steps go through. -/
theorem resetMeetsInv : Obligations.ResetMeetsInv := (kept_iff _).2 kept_reset

end Sys2Proof.Proofs.Keeping
end

section
/-! SUPPORT. Steps, the clock and the pin of reset: a millisecond passed and the expiries that come due in it, the values after
reset, and what the reset pin and the reference clock do. -/

namespace Sys2Proof.Proofs.ClockAndReset

open Sys2Proof Sys2Proof.Machine Sys2Proof.Laws

/-- Settles O1: by the definition of a step. -/
theorem stepTakesFrontCommand : Obligations.StepTakesFrontCommand := fun _ _ _ => rfl

/-! ### The expiries that have come due -/

theorem mem_whenDue {c d : Instr} {due : Bool} : c ∈ whenDue due d ↔ due = true ∧ c = d := by
  cases due <;> simp [whenDue]

theorem mem_link_dueList {k : Link} {l : ChanId} {c : Instr} : c ∈ k.dueList l ↔
    (k.training = some 0 ∧ c = .trainingTimerExpiry l) ∨ ∃ f ∈ k.inflight, f.timer = 0 ∧ c = .ackTimerExpiry l f.seq := by
  simp [Link.dueList, mem_whenDue, and_assoc, eq_comm (a := c)]

theorem dueFence_isSome {b : Body} {c : ChanId} : (b.dueFence c).isSome = true ↔
    ∃ (k : Fin 8) (f : Fence), k.val = c.val ∧ b.fence[k].out = some f ∧ f.timer = 0 := by
  unfold Body.dueFence
  by_cases hc : c.val < 8
  · have hb : b.fenceOf c = b.fence[(⟨c.val, hc⟩ : Fin 8)] := fenceOf_buffer b rfl
    rw [hb]
    constructor
    · intro h
      obtain ⟨f, hf⟩ := Option.isSome_iff_exists.1 h
      obtain ⟨hout, htimer⟩ := Option.filter_eq_some_iff.1 hf
      exact ⟨⟨c.val, hc⟩, f, rfl, hout, by simpa using htimer⟩
    · rintro ⟨k, f, hk, hout, htimer⟩
      obtain rfl : k = ⟨c.val, hc⟩ := Fin.ext hk
      exact Option.isSome_iff_exists.2 ⟨f, Option.filter_eq_some_iff.2 ⟨hout, by simpa using htimer⟩⟩
  · rw [fenceOf_table b (by omega)]
    constructor
    · exact nofun
    · rintro ⟨k, -, hk, -⟩
      omega

theorem budgetDue_iff {env : Env} {b : Body} {c : ChanId} : b.budgetDue env c = true ↔
    b.chan[c].state = .test ∧ env.items.bootBudget ≤ b.elapsed env c ∧
      (b.elapsed env c = env.items.bootBudget ∨ b.att[(5 : Fin 10)].pending = false) := by
  simp [Body.budgetDue, Condition.num, and_assoc]

theorem mem_chan_dueList {env : Env} {b : Body} {c : ChanId} {i : Instr} : i ∈ b.dueList env c ↔
    (b.chan[c].linkWait = some 0 ∧ i = .linkWaitExpiry c) ∨ (b.chan[c].geomWait = some 0 ∧ i = .geometryWaitExpiry c) ∨
    (b.chan[c].stepTimer = some 0 ∧ i = .stepTimerExpiry c) ∨ ((b.dueFence c).isSome = true ∧ i = .fenceTimerExpiry c) ∨
    (b.budgetDue env c = true ∧ i = .budgetExpiry c) := by
  simp [Body.dueList, mem_whenDue]

/-- A command has come due when a link, a channel, a port or the decay timer has it due. -/
theorem mem_dueList {s : State} {i : Instr} : i ∈ s.dueList ↔
    (∃ c : ChanId, i ∈ s.body.link[c].dueList c ∨ i ∈ s.body.dueList s.env c) ∨
    (∃ p, (s.port p).hold = some 0 ∧ i = .replyHoldExpiry p) ∨ (s.decayTimer = 0 ∧ i = .decay) := by
  have hports : (∃ p, (s.port p).hold = some 0 ∧ i = .replyHoldExpiry p) ↔
      (s.portA.hold = some 0 ∧ i = .replyHoldExpiry .a) ∨ (s.portB.hold = some 0 ∧ i = .replyHoldExpiry .b) :=
    ⟨fun ⟨p, h⟩ => by cases p; exacts [.inl h, .inr h], fun h => h.elim (⟨.a, ·⟩) (⟨.b, ·⟩)⟩
  rw [hports]
  simp [State.dueList, mem_whenDue, allChans, or_assoc]

/-- Which commands have come due, kind by kind. -/
theorem due_kinds (s : State) :
    (∀ l, .trainingTimerExpiry l ∈ s.dueList ↔ s.body.link[l].training = some 0) ∧
    (∀ l q, .ackTimerExpiry l q ∈ s.dueList ↔ ∃ f ∈ s.body.link[l].inflight, f.seq = q ∧ f.timer = 0) ∧
    (∀ c, .linkWaitExpiry c ∈ s.dueList ↔ s.body.chan[c].linkWait = some 0) ∧
    (∀ c, .geometryWaitExpiry c ∈ s.dueList ↔ s.body.chan[c].geomWait = some 0) ∧
    (∀ c, .stepTimerExpiry c ∈ s.dueList ↔ s.body.chan[c].stepTimer = some 0) ∧
    (∀ c, .fenceTimerExpiry c ∈ s.dueList ↔ (s.body.dueFence c).isSome = true) ∧
    (∀ c, .budgetExpiry c ∈ s.dueList ↔ s.body.budgetDue s.env c = true) ∧
    (∀ p, .replyHoldExpiry p ∈ s.dueList ↔ (s.port p).hold = some 0) ∧
    (.decay ∈ s.dueList ↔ s.decayTimer = 0) := by
  simp only [mem_dueList, mem_link_dueList, mem_chan_dueList, reduceCtorEq, and_false, or_false, false_or, exists_false,
    Instr.trainingTimerExpiry.injEq, Instr.linkWaitExpiry.injEq, Instr.geometryWaitExpiry.injEq,
    Instr.stepTimerExpiry.injEq, Instr.fenceTimerExpiry.injEq, Instr.budgetExpiry.injEq, Instr.replyHoldExpiry.injEq,
    exists_eq_right', and_true, implies_true, true_and]
  intro l q
  constructor
  · rintro ⟨c, f, hf, ht, he⟩
    injection he with hc hq
    subst hc
    exact ⟨f, hf, hq.symm, ht⟩
  · rintro ⟨f, hf, rfl, ht⟩
    exact ⟨l, f, hf, ht, rfl⟩

/-- Settles O2: a tick moves each timer by one, and what it queues is a rearrangement of what has come due. -/
theorem emptyQueuePassesOneMillisecond : Obligations.EmptyQueuePassesOneMillisecond := by
  unfold Obligations.EmptyQueuePassesOneMillisecond
  intro s hempty
  have hstep : step s = .next s.idle := by
    unfold step
    rw [hempty]
  refine ⟨fun hstopped => ?_, fun hruns => ⟨s.tick, ?_, rfl, fun p => by cases p <;> rfl, rfl, Keeping.tick_chan s.body,
    Keeping.tick_link s.body, Keeping.tick_fence s.body, ?_⟩⟩
  · rw [hstep, State.idle, hstopped]
    rfl
  · rw [hstep, State.idle, hruns]
    rfl
  · have hperm : s.tick.pending.Perm s.tick.dueList := by
      have hp : s.tick.pending = s.pending ++ freeOrdered s.picks s.tick.dueList := rfl
      rw [hp, hempty]
      exact freeOrdered_perm _ _
    obtain ⟨htrain, hack, hlink, hgeom, hstepT, hfence, hbudget, hhold, hdecay⟩ := due_kinds s.tick
    exact ⟨hperm, fun l => hperm.mem_iff.trans (htrain l), fun l q => hperm.mem_iff.trans (hack l q),
      fun c => hperm.mem_iff.trans (hlink c), fun c => hperm.mem_iff.trans (hgeom c), fun c => hperm.mem_iff.trans (hstepT c),
      fun c => hperm.mem_iff.trans ((hfence c).trans dueFence_isSome),
      fun c => hperm.mem_iff.trans ((hbudget c).trans budgetDue_iff), fun p => hperm.mem_iff.trans (hhold p),
      hperm.mem_iff.trans hdecay⟩

/-! ### Reset -/

/-- Settles O3: each block at its value. -/
theorem resetLeavesPowerOnValues : Obligations.ResetLeavesPowerOnValues := by
  unfold Obligations.ResetLeavesPowerOnValues
  intro s
  have hchan : ∀ c : ChanId, s.body.chan[c] = Channel.initial := fun c => by
    simp [s, State.reset, Body.released, Body.initial]
  have hlink : ∀ l : ChanId, s.body.link[l] = Link.released l := Keeping.released_link
  refine ⟨fun e => ?dir, fun c => ?inv, fun i => ?watch, fun c => ?chan, fun l => ?link, fun f => ?fence, by decide, rfl, rfl, rfl, rfl,
    rfl, rfl, rfl, hlink, rfl, rfl, rfl, fun p => by cases p <;> decide, rfl, rfl, rfl, rfl⟩
  case dir => simp [s, State.reset, Body.released, Body.initial, Entry.initial]
  case inv => simp [s, State.reset, Body.released, Body.initial]
  case watch => simp [s, State.reset, Body.released, Body.initial]
  case fence => simp [s, State.reset, Body.released, Body.initial, FenceUnit.initial]
  case chan =>
    rw [hchan c]
    decide
  case link =>
    rw [hlink l]
    exact ⟨rfl, rfl, rfl, rfl, rfl, rfl, rfl, rfl, rfl, rfl, rfl⟩

/-- The links each changed in its turn, once: every link of the list is changed, and nothing else. -/
theorem foldl_modLink (f : ChanId → Link → Link) : ∀ (ls : List ChanId) (b : Body), ls.Nodup →
    let b' := ls.foldl (fun x l => x.modLink l (f l)) b
    b' = { b with link := b'.link } ∧ ∀ l : ChanId, b'.link[l] = if l ∈ ls then f l b.link[l] else b.link[l]
  | [], b, _ => ⟨rfl, fun l => by simp⟩
  | m :: ls, b, hn => by
    obtain ⟨hm, hls⟩ := List.nodup_cons.1 hn
    obtain ⟨hrest, hlink⟩ := foldl_modLink f ls (b.modLink m (f m)) hls
    refine ⟨hrest, fun l => ?_⟩
    rw [List.foldl_cons, hlink]
    by_cases hl : m = l
    · subst hl
      simp [hm]
    · simp [modLink_other b (f m) hl, Ne.symm hl]

theorem startLinks_eq (b : Body) (refclk : Bool) : b.startLinks refclk = { b with link := (b.startLinks refclk).link } ∧
    ∀ l : ChanId, (b.startLinks refclk).link[l] =
      { b.link[l] with training := some 1, lane := if refclk then some ⟨0#4, .init l⟩ else none } := by
  obtain ⟨hrest, hlink⟩ := foldl_modLink (fun l k =>
    { k with training := some 1, lane := if refclk then some ⟨0#4, .init l⟩ else none }) allChans b (List.nodup_finRange 12)
  refine ⟨hrest, fun l => ?_⟩
  exact (hlink l).trans (if_pos (List.mem_finRange l))

/-- Settles O4: the pin held low, and let go. -/
theorem resetPinHoldsAndReleases : Obligations.ResetPinHoldsAndReleases := by
  unfold Obligations.ResetPinHoldsAndReleases
  refine ⟨fun s => ⟨_, rfl, rfl, rfl, rfl, rfl, rfl, rfl, rfl, rfl, rfl, rfl, rfl, rfl, rfl, rfl, rfl, rfl,
    fun p => by cases p <;> exact ⟨rfl, rfl, rfl, rfl, rfl, rfl, rfl⟩, fun l => ?lane, rfl, rfl, fun p addr data n ends => ?port⟩, fun s st hheld => ?release,
    fun s st hruns => ?idle⟩
  case lane => simp [State.held, Body.initial, Link.initial]
  case port => exact ⟨_, _, rfl, by rw [port_setPort], rfl, by rw [port_setPort]⟩
  case release =>
    obtain ⟨hrest, hlink⟩ := startLinks_eq s.body s.refclk
    refine ⟨_, if_pos hheld, rfl, rfl, rfl, hrest, hlink⟩
  case idle => exact if_neg (by rw [hruns]; exact Bool.false_ne_true)

/-! ### The reference clock -/

theorem endRead_eq (r : Port) (n : Nat) : r.endRead n =
    if r.reading = some .reply then { r with reading := none, hold := some n } else { r with reading := none } := by
  obtain ⟨_, _, _, _, _, _, _, reading, _⟩ := r
  cases reading with
  | none => rfl
  | some x => cases x <;> rfl

theorem endWrite_eq (r : Port) : r.endWrite = match r.writing with
    | some (b :: bs) => { r with writing := none, req := some (b :: bs) }
    | _ => { r with writing := none } := by
  obtain ⟨_, _, _, _, _, _, writing, _, _⟩ := r
  cases writing with
  | none => rfl
  | some x => cases x <;> rfl

theorem executorTakes_dispatch {s t : State} (h : t.executor = s.executor) : ExecutorTakes s t.dispatch := by
  rw [ExecutorTakes, ← h]
  unfold State.dispatch
  cases ht : t.executor with
  | none => simp [State.nextRequest]
  | some p => simp [ht]

/-- Settles O5: the frames on the lanes and the reads lost as it stops, the writes ended as it returns. -/
theorem referenceClockStopsAndReturns : Obligations.ReferenceClockStopsAndReturns := by
  unfold Obligations.ReferenceClockStopsAndReturns
  refine ⟨fun s hruns => ⟨_, if_pos hruns, rfl, fun p => ?read, rfl, Keeping.idleLanes_link s.body⟩,
    fun s hstopped => ⟨_, if_neg (by rw [hstopped]; exact Bool.false_ne_true), ?rest, executorTakes_dispatch rfl, fun p => ?write⟩,
    fun s hstopped => if_neg (by rw [hstopped]; exact Bool.false_ne_true), fun s hruns => if_pos hruns⟩
  case read => cases p <;> exact endRead_eq _ _
  case rest =>
    unfold SameOutsidePorts State.dispatch
    split <;> rfl
  case write =>
    rw [port_dispatch]
    cases p
    · exact endWrite_eq s.portA
    · exact endWrite_eq s.portB

end Sys2Proof.Proofs.ClockAndReset
end

section
/-! SUPPORT. The management ports: what a write, a read and a lapse make of a port's record, how a reply is placed, and the checks
that come before a request's own. -/

namespace Sys2Proof.Proofs.ManagementPorts

open Sys2Proof Sys2Proof.Machine Sys2Proof.Laws

/-! ### Writes -/

section Write

variable {r : Port} {hold : Nat} {addr : BitVec 7} {data : List Byte}

theorem takeBytes_first (hw : r.writing = some []) (hd : data ≠ []) : r.takeBytes data =
    { r.loseReply with
      writing := some (data.take 40)
      bus := { r.bus with dataAcks := (List.range data.length).map fun i => decide (i < 40) } } := by
  obtain ⟨b, bs, rfl⟩ := List.exists_cons_of_ne_nil hd
  simp [Port.takeBytes, hw]

theorem takeBytes_more {got : List Byte} (hw : r.writing = some got) (hg : got ≠ []) (hd : data ≠ []) : r.takeBytes data =
    { r with
      writing := some ((got ++ data).take 40)
      bus := { r.bus with dataAcks := (List.range data.length).map fun i => decide (got.length + i < 40) } } := by
  obtain ⟨b, bs, rfl⟩ := List.exists_cons_of_ne_nil hd
  simp [Port.takeBytes, hw, hg]

theorem takeBytes_nil : r.takeBytes [] = r := by
  unfold Port.takeBytes
  split
  · rename_i h
    cases h
  · rfl

/-- A write that has received bytes ends with them as the request. -/
theorem endWrite_bytes {bs : List Byte} (hw : r.writing = some bs) (hb : bs ≠ []) :
    r.endWrite = { r with writing := none, req := some bs } := by
  obtain ⟨b, bs, rfl⟩ := List.exists_cons_of_ne_nil hb
  rw [ClockAndReset.endWrite_eq, hw]

theorem startWrite_refused (h : addr ≠ (r.endWrite.endRead hold).addr ∨ (r.endWrite.endRead hold).req.isSome = true) :
    r.startWrite hold addr data = { r.endWrite.endRead hold with bus := ⟨some false, [], []⟩ } := by
  refine if_neg ?_
  rintro ⟨haddr, hreq⟩
  rcases h with h | h
  · exact h haddr
  · rw [hreq] at h
    exact absurd h (by decide)

theorem startWrite_taken (ha : addr = (r.endWrite.endRead hold).addr) (hr : (r.endWrite.endRead hold).req = none) :
    r.startWrite hold addr data =
      Port.takeBytes { r.endWrite.endRead hold with writing := some [], bus := ⟨some true, [], []⟩ } data := if_pos ⟨ha, hr⟩

theorem finishWrite_under {got : List Byte} (hw : r.writing = some got) :
    r.finishWrite data = (Port.takeBytes { r with bus := BusOut.silent } data).endWrite := by
  unfold Port.finishWrite
  rw [hw]

theorem finishWrite_first (hw : r.writing = some []) (hd : data ≠ []) : r.finishWrite data =
    { r with
      reply := none, readPos := 0, hold := none, lastLoss := .none, writing := none, req := some (data.take 40)
      bus := ⟨none, (List.range data.length).map fun i => decide (i < 40), []⟩ } := by
  have hne : data.take 40 ≠ [] := by simpa using hd
  rw [finishWrite_under hw, takeBytes_first (r := { r with bus := BusOut.silent }) hw hd, endWrite_bytes rfl hne]
  rfl

theorem finishWrite_more {got : List Byte} (hw : r.writing = some got) (hg : got ≠ []) (hl : got.length ≤ 40) :
    r.finishWrite data =
      { r with
        writing := none, req := some ((got ++ data).take 40)
        bus := ⟨none, (List.range data.length).map fun i => decide (got.length + i < 40), []⟩ } := by
  rw [finishWrite_under hw]
  by_cases hd : data = []
  · subst hd
    rw [takeBytes_nil, endWrite_bytes (r := { r with bus := BusOut.silent }) hw hg, List.append_nil, List.take_of_length_le hl]
    rfl
  · have hne : (got ++ data).take 40 ≠ [] := by simpa using fun h => absurd h hg
    rw [takeBytes_more (r := { r with bus := BusOut.silent }) hw hg hd, endWrite_bytes rfl hne]
    rfl

end Write

/-- Settles O6: what the START and the end of a write make of the port. -/
theorem writeTransactionFillsRequestSlot : Obligations.WriteTransactionFillsRequestSlot := by
  unfold Obligations.WriteTransactionFillsRequestSlot
  refine ⟨fun s p addr data hruns => ?start, fun s p addr data hstopped => ?deaf, fun s p data got hruns hw hl => ?finish,
    fun s p data hruns hw => ?none, fun s p data hstopped => if_neg (by rw [hstopped]; exact Bool.false_ne_true)⟩
  case start =>
    obtain ⟨htakes, hsame, hport, hothers⟩ := setPort_dispatch s p ((s.port p).startWrite s.items.replyHold addr data)
    refine ⟨_, if_pos hruns, hsame, htakes, hothers, ?_⟩
    intro r
    rw [hport]
    refine ⟨startWrite_refused, fun ha hr hd => ?_, fun ha hr hd => ?_⟩
    · subst hd
      rw [startWrite_taken ha hr, takeBytes_nil]
    · rw [startWrite_taken ha hr, takeBytes_first rfl hd]
      rfl
  case deaf => exact if_neg (by rw [hstopped]; exact Bool.false_ne_true)
  case finish =>
    obtain ⟨htakes, hsame, hport, hothers⟩ := setPort_dispatch s p ((s.port p).finishWrite data)
    refine ⟨_, if_pos hruns, hsame, htakes, hothers, ?_⟩
    rw [hport]
    refine ⟨fun hg hd => ?_, fun hg hd => ?_, fun hg => finishWrite_more hw hg hl⟩
    · subst hg hd
      rw [finishWrite_under hw, takeBytes_nil, ClockAndReset.endWrite_eq]
      simp only [hw]
      rfl
    · subst hg
      rw [finishWrite_first hw hd]
      simp
  case none =>
    have hsame : (s.port p).finishWrite data = s.port p := by
      unfold Port.finishWrite
      rw [hw]
    have hset : s.setPort p (s.port p) = s := by cases p <;> rfl
    refine ⟨_, if_pos hruns, ?_, ?_⟩
    · rw [hsame, hset]
      unfold State.dispatch
      split <;> rfl
    · rw [hsame, hset]
      exact ClockAndReset.executorTakes_dispatch rfl

/-! ### Reads -/

section Read

variable {r : Port} {hold n : Nat} {addr : BitVec 7} {ends : Bool}

theorem endRead_reading : (r.endRead hold).reading = none := by
  rw [ClockAndReset.endRead_eq]
  split <;> rfl

theorem readEnd_none (h : r.reading = none) : r.readEnd hold ends = r := by
  cases ends
  · rfl
  · show r.endRead hold = r
    unfold Port.endRead
    rw [h]

theorem readEnd_other {x : Reading} (h : r.reading = some x) (hx : x ≠ .reply) :
    r.readEnd hold ends = { r with reading := if ends then none else some x } := by
  cases ends
  · exact congrArg (fun y => { r with reading := y }) h
  · show r.endRead hold = _
    rw [ClockAndReset.endRead_eq, h, if_neg (fun he => hx (Option.some.inj he))]
    rfl

theorem readEnd_reply (h : r.reading = some .reply) : r.readEnd hold ends =
    { r with hold := if ends then some hold else r.hold, reading := if ends then none else some .reply } := by
  cases ends
  · exact congrArg (fun y => { r with reading := y }) h
  · show r.endRead hold = _
    rw [ClockAndReset.endRead_eq, h, if_pos rfl]
    rfl

theorem sendBytes_none (h : r.reading = none) : r.sendBytes n = r := by
  unfold Port.sendBytes
  rw [h]

theorem sendBytes_ones (h : r.reading = some .ones) :
    r.sendBytes n = { r with bus := { r.bus with sent := List.replicate n 0xFF#8 } } := by
  unfold Port.sendBytes
  rw [h]

theorem sendBytes_notReady {f : List Byte} {pos : Nat} (h : r.reading = some (.notReady f pos)) : r.sendBytes n =
    { r with reading := some (.notReady f (pos + n)), bus := { r.bus with sent := framePart f pos n } } := by
  unfold Port.sendBytes
  rw [h]

/-- The last byte of a reply empties the slot. -/
theorem sendBytes_last {f : List Byte} (h : r.reading = some .reply) (hf : r.reply = some f) (hn : f.length ≤ r.readPos + n) :
    r.sendBytes n =
      { r with reply := none, readPos := 0, reading := some .ones, bus := { r.bus with sent := framePart f r.readPos n } } := by
  unfold Port.sendBytes
  rw [h, hf]
  exact if_pos hn

theorem sendBytes_part {f : List Byte} (h : r.reading = some .reply) (hf : r.reply = some f) (hn : r.readPos + n < f.length) :
    r.sendBytes n = { r with readPos := r.readPos + n, bus := { r.bus with sent := framePart f r.readPos n } } := by
  unfold Port.sendBytes
  rw [h, hf]
  exact if_neg (by simpa using hn)

/-- The bytes that the master takes of a read, and the end of the read if it comes with them. -/
theorem taken_none (h : r.reading = none) : (r.sendBytes n).readEnd hold ends = r := by
  rw [sendBytes_none h, readEnd_none h]

theorem taken_ones (h : r.reading = some .ones) : (r.sendBytes n).readEnd hold ends =
    { r with reading := if ends then none else some .ones, bus := { r.bus with sent := List.replicate n 0xFF#8 } } := by
  rw [sendBytes_ones h]
  exact readEnd_other h nofun

theorem taken_notReady {f : List Byte} {pos : Nat} (h : r.reading = some (.notReady f pos)) :
    (r.sendBytes n).readEnd hold ends =
      { r with
        reading := if ends then none else some (.notReady f (pos + n))
        bus := { r.bus with sent := framePart f pos n } } := by
  rw [sendBytes_notReady h]
  exact readEnd_other rfl (by simp)

theorem taken_last {f : List Byte} (h : r.reading = some .reply) (hf : r.reply = some f) (hn : f.length ≤ r.readPos + n) :
    (r.sendBytes n).readEnd hold ends =
      { r with
        reply := none, readPos := 0, reading := if ends then none else some .ones
        bus := { r.bus with sent := framePart f r.readPos n } } := by
  rw [sendBytes_last h hf hn]
  exact readEnd_other rfl (by simp)

theorem taken_part {f : List Byte} (h : r.reading = some .reply) (hf : r.reply = some f) (hn : r.readPos + n < f.length) :
    (r.sendBytes n).readEnd hold ends =
      { r with
        readPos := r.readPos + n, hold := if ends then some hold else r.hold
        reading := if ends then none else some .reply, bus := { r.bus with sent := framePart f r.readPos n } } := by
  rw [sendBytes_part h hf hn]
  exact readEnd_reply h

theorem startRead_refused (h : addr ≠ (r.endWrite.endRead hold).addr) :
    r.startRead hold addr = { r.endWrite.endRead hold with bus := ⟨some false, [], []⟩ } := if_neg h

theorem startRead_notReady (h : addr = (r.endWrite.endRead hold).addr) (hr : (r.endWrite.endRead hold).reply = none) :
    r.startRead hold addr =
      { r.endWrite.endRead hold with
        reading := some (.notReady (r.endWrite.endRead hold).notReadyFrame 0), bus := ⟨some true, [], []⟩ } := by
  unfold Port.startRead
  rw [if_pos h]
  split
  · rename_i hs
    rw [hr] at hs
    cases hs
  · rfl

theorem startRead_reply {f : List Byte} (h : addr = (r.endWrite.endRead hold).addr)
    (hr : (r.endWrite.endRead hold).reply = some f) : r.startRead hold addr =
      { r.endWrite.endRead hold with reading := some .reply, hold := none, bus := ⟨some true, [], []⟩ } := by
  unfold Port.startRead
  rw [if_pos h]
  split
  · rfl
  · rename_i hs
    rw [hr] at hs
    cases hs

theorem notReadyFrame_eq (r : Port) : r.notReadyFrame = replyFrame ((r.req.getD []).getD 0 0#8) 0#8 .notReady
    [if r.req.isSome then 1#8 else 0#8, match r.lastLoss with | .none => 0#8 | .lapsed => 1#8 | .reset => 2#8] := by
  unfold Port.notReadyFrame
  cases r.req <;> cases r.lastLoss <;> rfl

end Read

/-- Settles O7: what the address phase, the bytes taken and the end of a read make of the port. -/
theorem readTransactionSendsReplyOrNotReady : Obligations.ReadTransactionSendsReplyOrNotReady := by
  unfold Obligations.ReadTransactionSendsReplyOrNotReady
  refine ⟨fun s p addr n ends hruns => ?start, fun s p n ends hruns => ?goesOn, fun s p addr n ends hstopped => ?deaf,
    fun s p n ends hstopped => ?idle⟩
  case start =>
    obtain ⟨htakes, hsame, hport, hothers⟩ := setPort_dispatch s p
      ((((s.port p).readPhase s.items.replyHold (some addr)).sendBytes n).readEnd s.items.replyHold ends)
    refine ⟨_, if_pos hruns, hsame, htakes, hothers, ?_⟩
    intro r
    rw [hport]
    simp only [Port.readPhase]
    refine ⟨fun ha => ?_, fun ha hr => ?_, fun f ha hr => ⟨fun hn => ?_, fun hn => ?_⟩⟩
    · rw [startRead_refused ha]
      exact taken_none endRead_reading
    · rw [startRead_notReady ha hr]
      refine (taken_notReady rfl).trans ?_
      rw [Nat.zero_add, notReadyFrame_eq]
      rfl
    · rw [startRead_reply ha hr]
      exact taken_last (r := { r with reading := some .reply, hold := none, bus := ⟨some true, [], []⟩ }) rfl hr hn
    · rw [startRead_reply ha hr]
      exact taken_part (r := { r with reading := some .reply, hold := none, bus := ⟨some true, [], []⟩ }) rfl hr hn
  case goesOn =>
    obtain ⟨htakes, hsame, hport, hothers⟩ := setPort_dispatch s p
      ((((s.port p).readPhase s.items.replyHold none).sendBytes n).readEnd s.items.replyHold ends)
    refine ⟨_, if_pos hruns, hsame, htakes, hothers, ?_⟩
    intro r
    rw [hport]
    have hphase : ∀ x, r.reading = some x → (s.port p).readPhase s.items.replyHold none = { r with bus := BusOut.silent } :=
      fun x hx => if_pos (by rw [show (s.port p).reading = some x from hx]; rfl)
    refine ⟨fun hr => ?_, fun hr => ?_, fun frame pos hr => ?_, fun f hr hf => ⟨fun hn => ?_, fun hn => ?_⟩⟩
    · have hsame : (s.port p).readPhase s.items.replyHold none = r :=
        if_neg (by rw [show (s.port p).reading = none from hr]; exact Bool.false_ne_true)
      rw [hsame, taken_none hr]
    · rw [hphase _ hr]
      exact taken_ones (r := { r with bus := BusOut.silent }) hr
    · rw [hphase _ hr]
      exact taken_notReady (r := { r with bus := BusOut.silent }) hr
    · rw [hphase _ hr]
      exact taken_last (r := { r with bus := BusOut.silent }) hr hf hn
    · rw [hphase _ hr]
      exact taken_part (r := { r with bus := BusOut.silent }) hr hf hn
  case deaf => exact (if_neg (by rw [hstopped]; exact Bool.false_ne_true)).trans (if_pos rfl)
  case idle => exact (if_neg (by rw [hstopped]; exact Bool.false_ne_true)).trans (if_neg (by exact Bool.false_ne_true))

/-! ### A reply lapses, and a reply is placed -/

/-- Settles O8: the hold timer at its end, and at any other moment. -/
theorem replyHoldExpiryDiscardsReply : Obligations.ReplyHoldExpiryDiscardsReply := by
  unfold Obligations.ReplyHoldExpiryDiscardsReply
  refine ⟨fun s p hruns hdue => if_pos ?_, fun s p h => if_neg ?_⟩
  · simp [hruns, hdue]
  · simpa using h

/-- Settles O9: the port's record and the executor by cases of the port; the codes are those of the lists. -/
theorem replyPlacedAndExecutorGoesOn : Obligations.ReplyPlacedAndExecutorGoesOn := by
  unfold Obligations.ReplyPlacedAndExecutorGoesOn
  intro s p q frame hq
  refine ⟨?port, placeReply_other s frame (Ne.symm hq), ?executor, ?rest, fun _ _ _ _ => rfl, by decide, by decide, by decide,
    by decide, by decide, by decide, fun x => ⟨fun h => ?_, fun r h => ?_⟩, by decide, by decide, by decide, by decide, by decide,
    by decide, by decide, by decide, fun _ => ⟨rfl, rfl, rfl, rfl, rfl⟩, fun b => by cases b <;> rfl⟩
  case port => cases p <;> rfl
  case executor =>
    cases p <;> cases q
    · exact absurd rfl hq
    · exact placeReply_executor_a s frame
    · exact placeReply_executor_b s frame
    · exact absurd rfl hq
  case rest => cases p <;> rfl
  · rw [Entry.stateCode, h]
  · rw [Entry.stateCode, h]

/-! ### The checks before a request's own -/

/-- The operand lengths of R190, code by code. -/
def operandLengths : List (Nat × Nat) :=
  [(0x01, 0), (0x02, 1), (0x03, 1), (0x04, 3), (0x05, 2), (0x06, 6), (0x07, 4), (0x08, 3), (0x09, 5), (0x0A, 0), (0x0B, 1),
   (0x0C, 2), (0x0D, 11), (0x0E, 5), (0x0F, 3), (0x10, 3), (0x11, 2), (0x12, 2), (0x13, 1), (0x14, 16), (0x15, 5), (0x16, 2),
   (0x17, 4), (0x18, 2), (0x19, 0)]

theorem operandLength_none {code : Nat} (h : 26 ≤ code) : operandLength code = none :=
  List.getD_eq_default _ _ (by simpa using h)

theorem operandLength_iff (code n : Nat) : operandLength code = some n ↔ (code, n) ∈ operandLengths := by
  by_cases hc : code < 26
  · interval_cases code <;> simp [operandLength, operandLengths, eq_comm]
  · rw [operandLength_none (by omega)]
    simp [operandLengths]
    omega

/-- Every code that has an operand length names a request. -/
theorem requestOf_isSome {code n : Nat} (h : operandLength code = some n) (o : List Byte) : (requestOf code o).isSome = true := by
  by_cases hc : code < 26
  · interval_cases code
    · cases h
    all_goals rfl
  · rw [operandLength_none (by omega)] at h
    cases h

/-- R160: the form of a request frame. -/
theorem parseRequest_none (bs : List Byte) : parseRequest bs = none ↔
    ¬(5 ≤ bs.length ∧ bs.drop (bs.length - 2) = crcBytes (bs.take (bs.length - 2)) ∧ (bs.getD 2 0#8).toNat + 5 = bs.length ∧
      operandLength (bs.getD 1 0#8).toNat = some (bs.length - 5)) := by
  match bs with
  | [] => simp [parseRequest]
  | [_] => simp [parseRequest]
  | [_, _] => simp [parseRequest]
  | tag :: code :: len :: rest =>
    have hform : (rest.length = len.toNat + 2 ∧ rest.drop len.toNat = crcBytes (tag :: code :: len :: rest.take len.toNat) ∧
        operandLength code.toNat = some len.toNat) ↔
        (5 ≤ rest.length + 3 ∧ (tag :: code :: len :: rest).drop (rest.length + 3 - 2) =
          crcBytes ((tag :: code :: len :: rest).take (rest.length + 3 - 2)) ∧ len.toNat + 5 = rest.length + 3 ∧
          operandLength code.toNat = some (rest.length + 3 - 5)) := by
      constructor
      · rintro ⟨hl, hcrc, hop⟩
        have h1 : rest.length + 3 - 2 = len.toNat + 3 := by omega
        have h2 : rest.length + 3 - 5 = len.toNat := by omega
        rw [h1, h2]
        exact ⟨by omega, hcrc, by omega, hop⟩
      · rintro ⟨-, hcrc, hl, hop⟩
        have h1 : rest.length + 3 - 2 = len.toNat + 3 := by omega
        have h2 : rest.length + 3 - 5 = len.toNat := by omega
        rw [h1] at hcrc
        rw [h2] at hop
        exact ⟨by omega, hcrc, hop⟩
    refine Iff.trans ?_ (not_congr hform)
    unfold parseRequest
    dsimp only
    split
    · rename_i h
      have hsome := requestOf_isSome h.2.2 (rest.take len.toNat)
      simpa [h, Option.isSome_iff_ne_none] using hsome
    · rename_i h
      exact iff_of_true rfl h

theorem executing_iff {s : State} {p : PortId} {tag : Byte} {rq : Request} : s.executing p = some (tag, rq) ↔
    s.inReset = false ∧ s.refclk = true ∧ s.executor = some p ∧
      ∃ bs, (s.port p).req = some bs ∧ parseRequest bs = some (tag, rq) := by
  unfold State.executing State.running
  simp [and_assoc, Option.bind_eq_some_iff]

/-- R164: which port may use which class. -/
theorem allows_eq (s : State) (rq : Request) : s.allows .a rq = true ∧
    s.allows .b rq = (if rq.code.toNat ≤ 0x0C then true else if rq.code.toNat ≤ 0x10 then s.grant.edit
      else if rq.code.toNat ≤ 0x17 then s.grant.control else false) := by
  cases rq <;> exact ⟨rfl, rfl⟩

/-- A request of a class that the port may not use is refused before any check of its own. -/
theorem denied {s : State} {p : PortId} {tag : Byte} {rq : Request} (he : s.executing p = some (tag, rq))
    (hw : s.allows p rq = false) : Refused s p tag rq .denied := by
  cases rq <;> exact serve_denied he hw rfl

/-- Settles O10: the form, the class, and the commands that find nothing to do. -/
theorem requestsRefusedBeforeTheirOwnChecks : Obligations.RequestsRefusedBeforeTheirOwnChecks := by
  unfold Obligations.RequestsRefusedBeforeTheirOwnChecks
  refine ⟨parseRequest_none, fun s p bs hruns hexec hreq hnone => ?unparsed, fun _ _ _ _ => denied, operandLength_iff,
    fun _ _ _ _ => executing_iff, fun _ _ _ => request_idle, fun s p h => ?idle, allows_eq⟩
  case unparsed =>
    show execUnparsedRequest p s = _
    unfold execUnparsedRequest
    rw [hreq]
    exact if_pos (by simp [hruns, hexec, hnone])
  case idle =>
    show execUnparsedRequest p s = _
    unfold execUnparsedRequest
    split
    · rfl
    · rename_i bs hreq
      refine if_neg fun hc => h ?_
      simp only [Bool.and_eq_true, beq_iff_eq, Option.isNone_iff_eq_none] at hc
      obtain ⟨⟨hruns, hexec⟩, hnone⟩ := hc
      exact ⟨hruns, hexec, bs, hreq, hnone⟩

end Sys2Proof.Proofs.ManagementPorts
end

section
/-! SUPPORT. The frames: a message is known by its type and payload, a frame of the part reads back whole, and the operands of a
request are read field by field. -/

namespace Sys2Proof.Proofs.Frames

open Sys2Proof Sys2Proof.Machine Sys2Proof.Laws

/-! ### Numbers in bytes -/

theorem toNat_ofNat_byte {n : Nat} (h : FitsBytes 1 n) : (BitVec.ofNat 8 n).toNat = n := by
  rw [BitVec.toNat_ofNat]
  exact Nat.mod_eq_of_lt h

theorem ofBytes_be1 {n : Nat} (h : FitsBytes 1 n) : ofBytes (be1 n) = n := by
  unfold FitsBytes at h
  simp [ofBytes, be1]
  omega

theorem ofBytes_be2 {n : Nat} (h : FitsBytes 2 n) : ofBytes (be2 n) = n := by
  unfold FitsBytes at h
  simp [ofBytes, be2]
  omega

theorem ofBytes_be3 {n : Nat} (h : FitsBytes 3 n) : ofBytes (be3 n) = n := by
  unfold FitsBytes at h
  simp [ofBytes, be3]
  omega

theorem ofBytes_be4 {n : Nat} (h : FitsBytes 4 n) : ofBytes (be4 n) = n := by
  unfold FitsBytes at h
  simp [ofBytes, be4]
  omega

theorem byte_inj {n m : Nat} (hn : FitsBytes 1 n) (hm : FitsBytes 1 m) (h : BitVec.ofNat 8 n = BitVec.ofNat 8 m) : n = m := by
  rw [← toNat_ofNat_byte hn, h, toNat_ofNat_byte hm]

theorem be2_inj {n m : Nat} (hn : FitsBytes 2 n) (hm : FitsBytes 2 m) (h : be2 n = be2 m) : n = m := by
  rw [← ofBytes_be2 hn, h, ofBytes_be2 hm]

theorem be3_inj {n m : Nat} (hn : FitsBytes 3 n) (hm : FitsBytes 3 m) (h : be3 n = be3 m) : n = m := by
  rw [← ofBytes_be3 hn, h, ofBytes_be3 hm]

/-! ### The messages the part sends -/

theorem opPlaces_length (fill : Byte) (ops : List MarchOp) : (opPlaces fill ops).length = 6 := by
  simp [opPlaces]

theorem rowKeyBytes_length (bank : Nat) (row : Option Nat) : (rowKeyBytes bank row).length = 5 := by
  cases row <;> rfl

theorem targetBytes_length (x : Replacement) : x.targetBytes.length = 2 := by
  cases x with
  | target t => cases t <;> rfl
  | exclude => rfl

theorem rowStatus_length (st : RowStatus) : st.bytes.length = 6 := by cases st <;> rfl

/-- R187: the type byte of a message and its payload's length. -/
theorem msg_type_length (m : Msg) : (m.type.toNat, m.payload.length) ∈
    [(0x01, 2), (0x02, 0), (0x03, 12), (0x04, 0), (0x05, 8), (0x06, 5), (0x07, 0), (0x08, 6), (0x09, 1), (0x0A, 0),
     (0x0B, 10)] := by
  cases m <;>
    simp [Msg.type, Msg.payload, be1, be3, opPlaces_length, rowKeyBytes_length, targetBytes_length, rowStatus_length]

theorem payload_length_le (m : Msg) : m.payload.length ≤ 28 := by
  have h := msg_type_length m
  simp only [List.mem_cons, Prod.mk.injEq, List.not_mem_nil, or_false] at h
  omega

/-- R130, R132: sealed bytes that have the form of a frame read back whole. -/
theorem parse_sealed (ty sq : Byte) {payload : List Byte} (hl : payload.length ≤ 28) (rest : List Byte) :
    parseLinkFrame (sealed ([ty, sq, BitVec.ofNat 8 payload.length] ++ payload) ++ rest) =
      some ⟨ty, sq.truncate 4, payload⟩ := by
  have hn : (BitVec.ofNat 8 payload.length).toNat = payload.length :=
    toNat_ofNat_byte (lt_of_le_of_lt hl (by decide))
  have hform : sealed ([ty, sq, BitVec.ofNat 8 payload.length] ++ payload) ++ rest =
      ty :: sq :: BitVec.ofNat 8 payload.length :: (payload ++
        (crcBytes (ty :: sq :: BitVec.ofNat 8 payload.length :: payload) ++ rest)) := by
    simp [sealed]
  rw [hform]
  unfold parseLinkFrame
  dsimp only
  rw [hn, List.take_left, List.drop_left, if_pos]
  exact ⟨hl, by simp [crcBytes, be2]⟩

theorem parse_txFrame (f : TxFrame) : parseLinkFrame f.bytes = some ⟨f.msg.type, f.seq, f.msg.payload⟩ := by
  have h := parse_sealed f.msg.type (f.seq.zeroExtend 8) (payload_length_le f.msg) []
  rw [List.append_nil] at h
  have hseq : (f.seq.zeroExtend 8).truncate 4 = f.seq := by
    apply BitVec.eq_of_toNat_eq
    simp
  exact h.trans (by rw [hseq])

/-! ### A message is known by its type and payload -/

theorem rowKeyBytes_inj {b c : Nat} {r q : Option Nat} (hb : FitsBytes 1 b) (hc : FitsBytes 1 c)
    (hr : ∀ n, r = some n → FitsBytes 3 n) (hq : ∀ n, q = some n → FitsBytes 3 n) (h : rowKeyBytes b r = rowKeyBytes c q) :
    b = c ∧ r = q := by
  cases r <;> cases q <;> simp only [rowKeyBytes, be1, List.cons_append, List.nil_append, List.cons.injEq] at h
  · exact ⟨byte_inj hb hc h.1, rfl⟩
  · exact absurd h.2.1 (by decide)
  · exact absurd h.2.1 (by decide)
  · obtain ⟨hbank, -, hrow⟩ := h
    exact ⟨byte_inj hb hc hbank, congrArg some (be3_inj (hr _ rfl) (hq _ rfl) hrow)⟩

theorem replacementBytes_inj {x y : Replacement} (hx : ∀ t, x = .target t → t.InRange) (hy : ∀ t, y = .target t → t.InRange)
    (h : be1 x.kindCode ++ x.targetBytes = be1 y.kindCode ++ y.targetBytes) : x = y := by
  have hcode : BitVec.ofNat 8 x.kindCode = BitVec.ofNat 8 y.kindCode := (List.cons.inj h).1
  have htarget : x.targetBytes = y.targetBytes := (List.cons.inj h).2
  match x, y with
  | .exclude, .exclude => rfl
  | .target (.device g i), .target (.device g' i') =>
    obtain ⟨hg, hi⟩ := hx _ rfl
    obtain ⟨hg', hi'⟩ := hy _ rfl
    simp only [Replacement.targetBytes, Target.bytes, be1, List.cons_append, List.nil_append, List.cons.injEq] at htarget
    rw [byte_inj hg hg' htarget.1, byte_inj hi hi' htarget.2.1]
  | .target (.pool k), .target (.pool k') =>
    simp only [Replacement.targetBytes, Target.bytes, be1, List.cons_append, List.nil_append, List.cons.injEq] at htarget
    rw [byte_inj (hx _ rfl) (hy _ rfl) htarget.1]
  | .exclude, .target (.device _ _) | .exclude, .target (.pool _) | .target (.device _ _), .exclude
  | .target (.pool _), .exclude | .target (.device _ _), .target (.pool _) | .target (.pool _), .target (.device _ _) =>
    exact absurd hcode (by simp [Replacement.kindCode])

theorem marchCode_inj {o o' : MarchOp} (h : BitVec.ofNat 8 o.code = BitVec.ofNat 8 o'.code) : o = o' := by
  cases o <;> cases o' <;> simp [MarchOp.code] at h ⊢

/-- Up to six operations are known by their number and their six places. -/
theorem opPlaces_inj {fill : Byte} {ops ops' : List MarchOp} (h6 : ops.length ≤ 6) (hl : ops.length = ops'.length)
    (h : opPlaces fill ops = opPlaces fill ops') : ops = ops' := by
  have hcodes : ops.map (fun o => BitVec.ofNat 8 o.code) = ops'.map (fun o => BitVec.ofNat 8 o.code) := by
    have ht := congrArg (List.take ops.length) h
    simp only [opPlaces, List.take_take, Nat.min_eq_left h6] at ht
    rw [List.take_append_of_le_length (by simp), List.take_append_of_le_length (by simp [hl])] at ht
    rwa [List.take_of_length_le (by simp), List.take_of_length_le (by simp [hl])] at ht
  exact List.map_injective_iff.2 (fun _ _ h => marchCode_inj h) hcodes

theorem rowStatusBytes_inj {b r c q : Nat} {x y : RowStatus} (hx : (Msg.rowStatus b r x).InRange)
    (hy : (Msg.rowStatus c q y).InRange) (h : x.bytes = y.bytes) : x = y := by
  obtain ⟨-, -, hx⟩ := hx
  obtain ⟨-, -, hy⟩ := hy
  cases x <;> cases y <;> simp [RowStatus.bytes, be1] at h ⊢
  case watched.watched n m => exact be2_inj hx hy h
  case repairedDevice.repairedDevice g i g' i' =>
    exact ⟨byte_inj hx.1 hy.1 h.1, byte_inj hx.2 hy.2 h.2⟩
  case repairedPool.repairedPool pb pr pb' pr' =>
    exact ⟨byte_inj hx.1 hy.1 h.1, be3_inj hx.2 hy.2 h.2⟩

theorem runStep_inj {tok tok' : Byte} {d d' : Direction} {g g' : Background} {ops ops' : List MarchOp} {k k' : Nat}
    {rg rg' : Region} (h6 : ops.length ≤ 6 ∧ FitsBytes 1 k) (h6' : ops'.length ≤ 6 ∧ FitsBytes 1 k')
    (h : (Msg.runStep tok d g ops k rg).payload = (Msg.runStep tok' d' g' ops' k' rg').payload) :
    Msg.runStep tok d g ops k rg = Msg.runStep tok' d' g' ops' k' rg' := by
  simp only [Msg.payload, be1, List.cons_append, List.nil_append, List.append_assoc, List.cons.injEq] at h
  obtain ⟨htok, hd, hg, hn, h⟩ := h
  obtain ⟨hplaces, h⟩ := List.append_inj h (by rw [opPlaces_length, opPlaces_length])
  simp only [List.cons.injEq, and_true] at h
  have hfits : ∀ {l : List MarchOp}, l.length ≤ 6 → FitsBytes 1 l.length := fun h => lt_of_le_of_lt h (by decide)
  have hops := opPlaces_inj h6.1 (byte_inj (hfits h6.1) (hfits h6'.1) hn) hplaces
  have hd : d = d' := by cases d <;> cases d' <;> simp [Direction.code] at hd ⊢
  have hg : g = g' := by cases g <;> cases g' <;> simp [Background.code] at hg ⊢
  have hrg : rg = rg' := by cases rg <;> cases rg' <;> simp [Region.code] at h ⊢
  rw [htok, hd, hg, hops, byte_inj h6.2 h6'.2 h.1, hrg]

/-- Two messages whose numbers fit their fields and whose type and payload agree are one message. -/
theorem msg_inj (m n : Msg) (hm : m.InRange) (hn : n.InRange) (ht : m.type = n.type) (hp : m.payload = n.payload) : m = n := by
  cases m <;> cases n <;> simp only [Msg.type, BitVec.reduceEq] at ht
  case discover.discover => rfl
  case halt.halt => rfl
  case clearSet.clearSet => rfl
  case release.release => rfl
  case init.init l l' =>
    simp only [Msg.payload, be1, List.cons_append, List.nil_append, List.cons.injEq, and_true, true_and] at hp
    have hfits : ∀ c : ChanId, FitsBytes 1 c.val := fun c => lt_trans c.isLt (by decide)
    rw [Fin.ext (byte_inj (hfits l) (hfits l') hp)]
  case runStep.runStep => exact runStep_inj hm hn hp
  case install.install b r x b' r' x' =>
    obtain ⟨hb, hr, hx⟩ := hm
    obtain ⟨hb', hr', hx'⟩ := hn
    simp only [Msg.payload, List.append_assoc] at hp
    obtain ⟨hkey, hrepl⟩ := List.append_inj hp (by rw [rowKeyBytes_length, rowKeyBytes_length])
    obtain ⟨rfl, rfl⟩ := rowKeyBytes_inj hb hb' hr hr' hkey
    rw [replacementBytes_inj hx hx' hrepl]
  case remove.remove =>
    obtain ⟨hb, hr⟩ := hm
    obtain ⟨hb', hr'⟩ := hn
    obtain ⟨rfl, rfl⟩ := rowKeyBytes_inj hb hb' hr hr' hp
    rfl
  case fence.fence =>
    obtain ⟨hb, hr⟩ := hm
    obtain ⟨hb', hr'⟩ := hn
    obtain ⟨rfl, hkey⟩ := List.cons.inj hp
    obtain ⟨rfl, rfl⟩ := rowKeyBytes_inj hb hb' hr hr' hkey
    rfl
  case lift.lift => rw [(List.cons.inj hp).1]
  case rowStatus.rowStatus b r st b' r' st' =>
    simp only [Msg.payload, be1, List.cons_append, List.nil_append, List.cons.injEq] at hp
    obtain ⟨hrow, hst⟩ := List.append_inj hp.2 rfl
    have hstatus := rowStatusBytes_inj hm hn hst
    obtain ⟨hb, hr, -⟩ := hm
    obtain ⟨hb', hr', -⟩ := hn
    rw [byte_inj hb hb' hp.1, be3_inj hr hr' hrow, hstatus]

/-! ### The operands of a request -/

theorem requestOf_code {code : Byte} {n : Nat} (h : operandLength code.toNat = some n) (o : List Byte) :
    ∃ rq, requestOf code.toNat o = some rq ∧ rq.code = code := by
  have hlt : code.toNat < 26 := by
    by_contra hc
    rw [ManagementPorts.operandLength_none (by omega)] at h
    cases h
  obtain ⟨k, hk⟩ : ∃ k, k = code.toNat := ⟨_, rfl⟩
  have hcode : code = BitVec.ofNat 8 k := by rw [hk]; simp
  rw [← hk] at h hlt ⊢
  rw [hcode]
  interval_cases k
  · cases h
  all_goals exact ⟨_, rfl, rfl⟩

/-- What the bytes of a code spell, its request frame is read as. -/
theorem reads {code : Byte} {operands : List Byte} {rq : Request} (hl : operandLength code.toNat = some operands.length)
    (h : requestOf code.toNat operands = some rq) (tag : Byte) :
    parseRequest (requestFrame tag code operands) = some (tag, rq) := by
  rw [parse_requestFrame tag code operands hl, h]
  rfl

/-- The step fields of a WRITE_PLAN, place by place. -/
theorem stepField_eq {n mark : Nat} {o : StepOp} (h1 : FitsBytes 1 o.direction) (h2 : FitsBytes 1 o.background)
    (h3 : FitsBytes 1 o.mandatory) (h4 : FitsBytes 1 o.spread) (h5 : FitsBytes 1 o.count) (hl : o.places.length = 6)
    (h6 : ∀ x ∈ o.places, FitsBytes 1 x) (h7 : FitsBytes 1 o.pause) (h8 : FitsBytes 2 o.mask) :
    stepField (be1 n ++ be1 mark ++ be1 o.direction ++ be1 o.background ++ be1 o.mandatory ++ be1 o.spread ++ be1 o.count ++
      (o.places.map fun x => BitVec.ofNat 8 x) ++ be1 o.pause ++ be2 o.mask) = o := by
  obtain ⟨d, g, m, sp, ct, places, pause, mask⟩ := o
  obtain ⟨a, b, c, e, f, i, rfl⟩ : ∃ a b c e f i, places = [a, b, c, e, f, i] := by
    match places, hl with
    | [a, b, c, e, f, i], _ => exact ⟨a, b, c, e, f, i, rfl⟩
  have hplaces : [a, b, c, e, f, i].map (fun x => (BitVec.ofNat 8 x).toNat) = [a, b, c, e, f, i] := by
    refine (List.map_congr_left fun x hx => toNat_ofNat_byte (h6 x hx)).trans (List.map_id _)
  show StepOp.mk (ofBytes (be1 d)) (ofBytes (be1 g)) (ofBytes (be1 m)) (ofBytes (be1 sp)) (ofBytes (be1 ct))
    ([a, b, c, e, f, i].map fun x => (BitVec.ofNat 8 x).toNat) (ofBytes (be1 pause)) (ofBytes (be2 mask)) = _
  rw [ofBytes_be1 h1, ofBytes_be1 h2, ofBytes_be1 h3, ofBytes_be1 h4, ofBytes_be1 h5, hplaces, ofBytes_be1 h7, ofBytes_be2 h8]

/-- Settles O11: the frames sent read back, the messages are told apart, and each request's operands by their widths. -/
theorem framesReadBackAsWritten : Obligations.FramesReadBackAsWritten := by
  unfold Obligations.FramesReadBackAsWritten
  intro rowKey sends
  have hkey : ∀ bank row, rowKeyBytes bank row = rowKey bank row := fun bank row => by cases row <;> rfl
  refine ⟨fun f => ⟨parse_txFrame f, msg_type_length f.msg⟩, fun _ => ⟨rfl, rfl⟩, ⟨rfl, rfl⟩, ⟨rfl, rfl⟩, ⟨rfl, rfl⟩, ⟨rfl, rfl⟩,
    fun _ => ⟨rfl, rfl⟩, fun _ _ _ _ _ rg => ⟨rfl, by cases rg <;> rfl⟩, fun bank row x => ⟨rfl, ?install⟩,
    fun bank row => ⟨rfl, hkey bank row⟩, fun sr bank row => ⟨rfl, congrArg (sr :: ·) (hkey bank row)⟩,
    fun bank row st => ⟨rfl, by cases st <;> rfl⟩, msg_inj, fun tag code operands hl => ?request, ?fields⟩
  case install =>
    show rowKeyBytes bank row ++ be1 x.kindCode ++ x.targetBytes = _
    rw [hkey, List.append_assoc]
    cases x with
    | target t => cases t <;> rfl
    | exclude => rfl
  case request =>
    obtain ⟨rq, hrq, hcode⟩ := requestOf_code hl operands
    exact ⟨rq, hrq, hcode, reads hl hrq tag⟩
  case fields =>
    intro readsAs
    refine ⟨reads rfl rfl, reads rfl rfl, reads rfl rfl, fun n hn => ?one, fun n hn => ?two, fun mark x hmark hx => ?mark,
      fun n g hn hg => ?gen, fun n v hn hv => ?config, fun n bank row hn hb hr => ?rows,
      fun n mark o hn hmark h1 h2 h3 h4 h5 hl h6 h7 h8 => ?plan⟩
    case one =>
      have hf : field (be1 n) 0 1 = n := ofBytes_be1 hn
      exact ⟨reads rfl (congrArg (fun k => some (Request.getChannel k)) hf), reads rfl (congrArg (fun k => some (Request.getLink k)) hf),
        reads rfl (congrArg (fun k => some (Request.readPlan k)) hf), reads rfl (congrArg (fun k => some (Request.release k)) hf)⟩
    case two =>
      have hf : field (be2 n) 0 2 = n := ofBytes_be2 hn
      exact ⟨reads rfl (congrArg (fun k => some (Request.readEntry k)) hf), reads rfl (congrArg (fun k => some (Request.startTest k)) hf),
        reads rfl (congrArg (fun k => some (Request.stopTest k)) hf), reads rfl (congrArg (fun k => some (Request.clearAttention k)) hf)⟩
    case mark =>
      have hm : ofBytes (be1 mark) = mark := ofBytes_be1 hmark
      have hv : ofBytes (be1 x) = x := ofBytes_be1 hx
      have hop : MarkOp.mk (ofBytes (be1 mark)) (ofBytes (be1 x)) = ⟨mark, x⟩ := by rw [hm, hv]
      refine ⟨reads rfl (congrArg (fun k => some (Request.readConfig k)) hop),
        reads rfl (congrArg₂ (fun k j => some (Request.grant k j)) hm hv), fun n hn => ?_, fun n hn => ?_⟩
      · have hf : ofBytes (be1 n) = n := ofBytes_be1 hn
        exact ⟨reads rfl (congrArg₂ (fun k j => some (Request.getInventory k j)) hf hop),
          reads rfl (congrArg₂ (fun k j => some (Request.readWatch k j)) hf hop)⟩
      · have hf : ofBytes (be2 n) = n := ofBytes_be2 hn
        refine ⟨reads rfl (congrArg₂ (fun k j => some (Request.nextEntry k j)) hf hop), reads rfl ?_⟩
        show some (Request.setAttention (ofBytes (be2 n)) (ofBytes (be1 mark)) (ofBytes (be1 x))) = _
        rw [hf, hm, hv]
    case gen =>
      have hf : ofBytes (be2 n) = n := ofBytes_be2 hn
      have hv : ofBytes (be1 g) = g := ofBytes_be1 hg
      exact ⟨reads rfl (congrArg₂ (fun k j => some (Request.retire k j)) hf hv),
        reads rfl (congrArg₂ (fun k j => some (Request.refilled k j)) hf hv)⟩
    case config => exact reads rfl (congrArg₂ (fun k j => some (Request.setConfig k j)) (ofBytes_be1 hn) (ofBytes_be4 hv))
    case rows =>
      have hf : ofBytes (be1 n) = n := ofBytes_be1 hn
      have hbank : ofBytes (be1 bank) = bank := ofBytes_be1 hb
      have hrow : ofBytes (be3 row) = row := ofBytes_be3 hr
      refine ⟨reads rfl ?_, reads rfl ?_, fun scope hs => ?_⟩
      · show some (Request.findWatch (ofBytes (be1 n)) (ofBytes (be1 bank)) (ofBytes (be3 row))) = _
        rw [hf, hbank, hrow]
      · show some (Request.addRepair (ofBytes (be1 n)) (ofBytes (be1 bank)) (ofBytes (be3 row))) = _
        rw [hf, hbank, hrow]
      · intro key
        have hop : KeyOp.mk (ofBytes (be1 n)) (ofBytes (be1 bank)) (ofBytes (be1 scope)) (ofBytes (be3 row)) =
            ⟨n, bank, scope, row⟩ := by rw [hf, hbank, ofBytes_be1 hs, hrow]
        refine ⟨reads rfl (congrArg (fun k => some (Request.find k)) hop), fun dt mark t0 t1 hdt hmark h0 h1 => reads rfl ?_⟩
        show some (Request.seed (KeyOp.mk (ofBytes (be1 n)) (ofBytes (be1 bank)) (ofBytes (be1 scope)) (ofBytes (be3 row)))
          (ofBytes (be2 dt)) (ofBytes (be1 mark)) (ofBytes (be1 t0)) (ofBytes (be1 t1))) = _
        rw [hop, ofBytes_be2 hdt, ofBytes_be1 hmark, ofBytes_be1 h0, ofBytes_be1 h1]
    case plan =>
      refine reads (by simp [be1, be2, hl, operandLength]) ?_
      show some (Request.writePlan (ofBytes (be1 n)) (ofBytes (be1 mark)) (stepField _)) = _
      rw [ofBytes_be1 hn, ofBytes_be1 hmark, stepField_eq h1 h2 h3 h4 h5 hl h6 h7 h8]

end Sys2Proof.Proofs.Frames
end

section
/-! SUPPORT. The requests of class INSPECT: how the records searched for are found, and what each request answers. -/

namespace Sys2Proof.Proofs.Inspect

open Sys2Proof Sys2Proof.Machine Sys2Proof.Laws

/-! ### Lists of the numbers below a bound -/

theorem toList_eq {α : Type} {n : Nat} (v : Vector α n) : v.toList = (List.finRange n).map fun i => v[i] :=
  List.ext_getElem (by simp) fun _ _ _ => by simp

theorem countP_toList {α : Type} {n : Nat} (v : Vector α n) (p : α → Bool) :
    v.toList.countP p = (List.finRange n).countP fun i => p v[i] := by
  rw [toList_eq, List.countP_map]
  rfl

theorem any_toList {α : Type} {n : Nat} (v : Vector α n) (p : α → Bool) :
    v.toList.any p = (List.finRange n).any fun i => p v[i] := by
  rw [toList_eq, List.any_map]
  rfl

/-- A search of the numbers below a bound finds the least that satisfies the test. -/
theorem find_finRange_some {n : Nat} {p : Fin n → Bool} {i : Fin n} :
    (List.finRange n).find? p = some i ↔ p i = true ∧ ∀ j < i, p j = false := by
  have h := List.find?_ofFn_eq_some_of_injective (f := id) (p := p) (i := i) Function.injective_id
  simpa [List.ofFn_id] using h

/-- The sum of a list in which the elements that fail a test count 0. -/
theorem sum_map_filter {α : Type} (p : α → Bool) (f : α → Nat) (l : List α) :
    ((l.filter p).map f).sum = (l.map fun x => if p x then f x else 0).sum := by
  induction l with
  | nil => rfl
  | cons x l ih => cases h : p x <;> simp [h, ih]

/-- A list without repetition holds two elements when it holds one besides a given one. -/
theorem two_le_length_iff {α : Type} {l : List α} (hn : l.Nodup) {c : α} (hc : l.head? = some c) :
    2 ≤ l.length ↔ ∃ d ∈ l, d ≠ c := by
  cases l with
  | nil => cases hc
  | cons x l =>
    obtain rfl := Option.some.inj hc
    obtain ⟨hx, -⟩ := List.nodup_cons.1 hn
    constructor
    · intro h
      obtain ⟨d, hd⟩ := List.exists_mem_of_length_pos (l := l) (Nat.le_of_succ_le_succ h)
      exact ⟨d, List.mem_cons_of_mem _ hd, fun he => hx (he ▸ hd)⟩
    · rintro ⟨d, hd, hne⟩
      have hmem := (List.mem_cons.1 hd).resolve_left hne
      exact Nat.succ_le_succ (List.length_pos_of_mem hmem)

/-! ### GET_STATUS -/

theorem unitsInUse_sum (b : Body) : b.unitsInUse =
    ((List.finRange 12).map fun c => if b.chan[c].admission.isHeld then (if c.val < 8 then 3 else 1) else 0).sum := by
  unfold Body.unitsInUse allChans
  simp only [weight_eq]

theorem line_eq (s : State) (l : Line) : s.line l = (!s.inReset && (List.finRange 10).any fun n =>
    s.body.att[n].pending && s.body.att[n].enable && s.body.att[n].line == l) := by
  unfold State.line
  rw [any_toList]
  rfl

/-- Settles O13: the summary, count by count. -/
theorem getStatusSummarisesThePart : Obligations.GetStatusSummarisesThePart := by
  unfold Obligations.GetStatusSummarisesThePart
  intro s p tag hasked
  refine answers_of hasked rfl rfl (congrArg s.accept ?_)
  unfold State.statusBytes Body.watchCount
  rw [countP_toList, countP_toList, unitsInUse_sum, line_eq, line_eq]
  rfl

/-! ### GET_CHANNEL and GET_LINK -/

theorem phaseBytes_eq (o : Option Phase) : optField 1 (fun x => be1 x.code) o =
    match o with | none => zeros 2 | some x => 1#8 :: be1 x.code := by cases o <;> rfl

theorem causeBytes_eq (o : Option Cause) : optField 1 (fun x => be1 x.code) o =
    match o with | none => zeros 2 | some x => 1#8 :: be1 x.code := by cases o <;> rfl

theorem placeBytes_eq (o : Option SlotNo) : optField 1 (fun x : SlotNo => be1 x.val) o =
    match o with | none => zeros 2 | some x => 1#8 :: be1 x.val := by cases o <;> rfl

theorem stepBytes_eq (o : Option Running) : optField 3 Running.bytes o = match o with
    | none => zeros 4
    | some r => 1#8 :: ((match r.kind with
      | .poolcheck => be1 0 ++ be1 0
      | .plan k => be1 1 ++ be1 k.val
      | .verify k => be1 2 ++ be1 k) ++ [r.token]) := by
  cases o with
  | none => rfl
  | some r => obtain ⟨kind, _, _⟩ := r; cases kind <;> rfl

theorem classCode_eq (c : ChanId) : (if isBuffer c then 0 else 1) = if c.val < 8 then 0 else 1 := by
  rw [isBuffer_eq]
  simp

theorem elapsedBytes_eq (s : State) (c : ChanId) :
    optField 4 be4 (if s.body.chan[c].state = .test then some (s.body.elapsed s.env c) else none) =
      if s.body.chan[c].state = .test then 1#8 :: be4 (s.now - s.body.chan[c].runStart.getD s.now).toNat else zeros 5 := by
  split <;> rfl

theorem admissionCode_eq (a : Admission) : a.code = match a with | .none => 0 | .waiting _ => 1 | .held _ => 2 := by
  cases a <;> rfl

theorem channelBytes_eq (s : State) (c : ChanId) : let ch := s.body.chan[c]
    s.body.channelBytes s.env c =
      be1 (if c.val < 8 then 0 else 1) ++ be1 ch.state.code ++
        (match ch.phase with | none => zeros 2 | some x => 1#8 :: be1 x.code) ++
        (match ch.cause with | none => zeros 2 | some x => 1#8 :: be1 x.code) ++
        (match ch.planPos with | none => zeros 2 | some x => 1#8 :: be1 x.val) ++
        (match ch.step with
          | none => zeros 4
          | some r => 1#8 :: ((match r.kind with
            | .poolcheck => be1 0 ++ be1 0
            | .plan k => be1 1 ++ be1 k.val
            | .verify k => be1 2 ++ be1 k) ++ [r.token])) ++
        be1 (match ch.admission with | .none => 0 | .waiting _ => 1 | .held _ => 2) ++ be1 ch.verifyRound ++
        (if ch.state = .test then 1#8 :: be4 (s.now - ch.runStart.getD s.now).toNat else zeros 5) ++
        be2 ch.repaired.length ++ be1 ch.skipped ++ be2 ch.repairs ++ yesNo ch.releaseOut ++ yesNo s.body.inv[c].isSome := by
  unfold Body.channelBytes
  dsimp only
  rw [classCode_eq, elapsedBytes_eq, phaseBytes_eq, causeBytes_eq, placeBytes_eq, stepBytes_eq, admissionCode_eq]

/-- Settles O14: the record field by field. -/
theorem getChannelGivesTheRecord : Obligations.GetChannelGivesTheRecord := by
  unfold Obligations.GetChannelGivesTheRecord
  intro s p tag n hasked
  refine ⟨fun hn => refused_of hasked rfl rfl (by simp only [(chanOf_none n).2 hn]), fun c hc => ?_⟩
  refine answers_of hasked rfl rfl ?_
  simp only [(chanOf_some n c).2 hc]
  subst hc
  exact congrArg s.accept (channelBytes_eq s c)

theorem linkBytes_eq (k : Link) : k.bytes =
    be1 k.state.code ++ be1 k.nextTx.toNat ++ be1 k.expected.toNat ++ be1 k.sendq.length ++ be1 k.inflight.length ++
      [k.fenceSerial] ++ yesNo k.gap ++ (match k.lastHello with | none => zeros 2 | some v => [1#8, v]) ++
      be2 k.counters.crcDiscards ++ be2 k.counters.overruns ++ be2 k.counters.gaps ++ be2 k.counters.malformed ++
      be2 k.counters.ackTimeouts ++ be2 k.counters.sendOverflows ++ be2 k.counters.lossesOfSignal ++ be2 k.counters.timesUp := by
  have hhello : optField 1 (fun v => [v]) k.lastHello = match k.lastHello with | none => zeros 2 | some v => [1#8, v] := by
    cases k.lastHello <;> rfl
  unfold Link.bytes
  rw [hhello]

/-- Settles O15: the record field by field, and the GAP flag of this link cleared. -/
theorem getLinkReportsAndClearsGap : Obligations.GetLinkReportsAndClearsGap := by
  unfold Obligations.GetLinkReportsAndClearsGap
  intro s p tag n hasked
  refine ⟨fun hn => refused_of hasked rfl rfl (by simp only [(chanOf_none n).2 hn]), fun l hl => ?_⟩
  refine ⟨{ s with body := s.body.modLink l fun k => { k with gap := false } }, answers_of hasked rfl rfl ?_, rfl,
    modLink_same _ _ _, fun m hm => modLink_other _ _ (Ne.symm hm)⟩
  simp only [(chanOf_some n l).2 hl]
  exact congrArg (State.accept _) (linkBytes_eq _)

/-! ### GET_INVENTORY -/

theorem selectorOk_iff (m : MarkOp) : selectorOk m = true ↔
    m.mark = 0 ∨ (m.mark = 1 ∧ m.value ≤ 31) ∨ (m.mark = 2 ∧ m.value ≤ 127) := by
  simp [selectorOk, or_assoc]

theorem spareCount_eq (v : Inventory) (st : SpareState) : v.spareCount st = v.spares.flatten.count st := by
  rw [Inventory.spareCount, List.count_flatten]

theorem summaryBytes_eq (v : Inventory) : v.summaryBytes =
    be1 v.geo.banks ++ be4 v.geo.rowsPerBank ++ be1 v.geo.banksPerGroup ++ be1 v.geo.sparesPerGroup ++
      be1 v.geo.poolBank ++ be1 v.geo.poolRows ++ be2 v.tag.toNat ++ be1 (v.spares.flatten.count .free) ++
      be1 (v.spares.flatten.count .used) ++ be1 (v.spares.flatten.count .spent) ++ be1 (v.slots.count .free) ++
      be1 (v.slots.count .used) ++ be1 (v.slots.count .bad) ++
      (match v.slots.findIdx? (· == .free) with | none => zeros 2 | some i => 1#8 :: be1 i) ++ be1 v.exclusions := by
  have hfree : optField 1 be1 v.freeSlot =
      match v.slots.findIdx? (· == .free) with | none => zeros 2 | some i => 1#8 :: be1 i := by
    unfold Inventory.freeSlot
    cases v.slots.findIdx? (· == .free) <;> rfl
  unfold Inventory.summaryBytes
  rw [hfree, spareCount_eq, spareCount_eq, spareCount_eq]
  rfl

theorem holderBytes_eq (o : Option EntryNo) : optField 2 (fun e : EntryNo => be2 e.val) o =
    match o with | none => zeros 3 | some e => 1#8 :: be2 e.val := by cases o <;> rfl

theorem freeSlots_eq (b : Body) (d : ChanId) : b.freeSlots d = match b.inv[d] with
    | none => 0
    | some v => v.slots.count .free := by
  unfold Body.freeSlots
  cases b.inv[d] <;> rfl

section Inventory

variable {s : State} {c : ChanId} {v : Inventory} {m : MarkOp}

theorem inventoryAnswer_summary (hm : m.mark = 0) : s.inventoryAnswer c v m = s.accept v.summaryBytes := if_pos hm

theorem inventoryAnswer_bank (hm : m.mark = 1) : s.inventoryAnswer c v m =
    if m.value < v.geo.banks then s.accept (s.body.bankBytes c v m.value) else s.refuse .badArg := by
  unfold State.inventoryAnswer
  rw [if_neg (by omega), if_pos hm]

theorem inventoryAnswer_slot (hm : m.mark = 2) : s.inventoryAnswer c v m = match v.slots[m.value]? with
    | some st => s.accept (s.body.slotBytes c v m.value st)
    | none => s.refuse .badArg := by
  unfold State.inventoryAnswer
  rw [if_neg (by omega), if_neg (by omega)] <;> rfl

end Inventory

/-- Settles O16: the checks in their order, and the three selections. -/
theorem getInventoryGivesTheSelection : Obligations.GetInventoryGivesTheSelection := by
  unfold Obligations.GetInventoryGivesTheSelection
  refine ⟨fun s p tag n m hasked => ?_, excluded_iff, fun b f => ⟨findEntry_none b f, findEntry_iff b f⟩, freeSlots_eq⟩
  intro rq inside
  have hinside : selectorOk m = true ↔ inside := selectorOk_iff m
  refine ⟨fun h => ?outside, fun c hc hin => ⟨fun hv => ?absent, fun v hv => ?found⟩⟩
  case outside =>
    refine refused_of hasked rfl rfl ?_
    cases hc : chanOf n with
    | none => rfl
    | some c =>
      have hn : ¬11 < n := fun hn => by
        rw [(chanOf_none n).2 hn] at hc
        cases hc
      have hout : selectorOk m = false := by
        rw [← Bool.not_eq_true, hinside]
        exact h.resolve_left hn
      simp only [hout, if_true]
  case absent =>
    refine refused_of hasked rfl rfl ?_
    simp only [(chanOf_some n c).2 hc, hinside.2 hin, Bool.true_eq_false, if_false, hv]
  case found =>
    have hanswer : ∀ {st payload}, s.inventoryAnswer c v m = ⟨s, st, payload⟩ → Answers s p tag rq s st payload := by
      intro st payload h
      refine answers_of hasked rfl rfl ?_
      simp only [(chanOf_some n c).2 hc, hinside.2 hin, Bool.true_eq_false, if_false, hv]
      exact h
    refine ⟨fun hm => hanswer ?_, fun hm hb => hanswer ?_, fun hm hb => hanswer ?_, fun hm hb => hanswer ?_,
      fun st hm hst => hanswer ?_⟩
    · rw [inventoryAnswer_summary hm, summaryBytes_eq]
      rfl
    · rw [inventoryAnswer_bank hm, if_neg (by omega)]
      rfl
    · rw [inventoryAnswer_bank hm, if_pos hb]
      simp only [State.accept, Body.bankBytes, Geometry.group, List.getD_eq_getElem?_getD]
    · rw [inventoryAnswer_slot hm, List.getElem?_eq_none hb]
      rfl
    · rw [inventoryAnswer_slot hm, hst]
      simp only [State.accept, Body.slotBytes, holderBytes_eq]
      rfl

/-! ### READ_ENTRY and NEXT_ENTRY -/

theorem stateBytes_live {x : Entry} {r : Live} (h : x.live = some r) : x.stateBytes = be1 r.st.code ++ [x.gen] := by
  rw [Entry.stateBytes, Entry.stateCode, h]

theorem presence_eq (r : Live) : r.presence = 1 + (if r.key.row = none then 0 else 2) + (if r.repl = none then 0 else 4) +
    (if r.repl = none ∨ r.repl = some .exclude then 0 else 8) + (if r.st = .unresolved ∧ r.requested ≠ none then 16 else 0) := by
  obtain ⟨st, ⟨_, _, row⟩, repl, requested, _, _, _⟩ := r
  unfold Live.presence
  rcases repl with _ | (_ | _) <;> cases row <;> cases requested <;> simp

/-- The kind and target of an entry's record, three bytes. -/
def replBytes (o : Option Replacement) : List Byte := (o.map fun x => be1 x.kindCode ++ x.targetBytes).getD (zeros 3)

theorem replBytes_eq (o : Option Replacement) : replBytes o = match o with
    | none => zeros 3
    | some (.target (.device g i)) => be1 0 ++ be1 g ++ be1 i
    | some (.target (.pool k)) => be1 1 ++ be1 k ++ be1 0
    | some .exclude => be1 2 ++ zeros 2 := by
  rcases o with _ | (_ | _) | _ <;> rfl

theorem requestedBytes_eq (r : Live) : r.requestedBytes = match r.st, r.requested with
    | .unresolved, some (.device g i) => be1 0 ++ be1 g ++ be1 i
    | .unresolved, some (.pool k) => be1 1 ++ be1 k ++ be1 0
    | _, _ => zeros 3 := by
  obtain ⟨st, _, _, requested, _, _, _⟩ := r
  unfold Live.requestedBytes
  rcases requested with _ | (_ | _) <;> cases st <;> rfl

theorem replBytes_three (o : Option Replacement) : ∃ x y z, replBytes o = [x, y, z] := by
  rcases o with _ | (_ | _) | _ <;> exact ⟨_, _, _, rfl⟩

theorem requestedBytes_three (r : Live) : ∃ x y z, r.requestedBytes = [x, y, z] := by
  obtain ⟨st, _, _, requested, _, _, _⟩ := r
  unfold Live.requestedBytes
  rcases requested with _ | (_ | _) <;> cases st <;> exact ⟨_, _, _, rfl⟩

theorem record_free {n : EntryNo} {x : Entry} (h : x.live = none) : x.record n = be2 n.val ++ [x.gen] ++ List.replicate 17 0#8 := by
  unfold Entry.record
  rw [h]
  rfl

theorem record_live {n : EntryNo} {x : Entry} {r : Live} (h : x.live = some r) : x.record n =
    be2 n.val ++ [x.gen] ++ be1 r.st.code ++ be1 r.presence ++ be1 r.key.chan.val ++ be1 r.key.bank ++
      be3 (r.key.row.getD 0) ++ replBytes r.repl ++ r.requestedBytes ++ be1 r.origin.code ++ be2 r.tag.toNat ++ be1 r.round := by
  unfold Entry.record
  rw [h]
  rfl

theorem filterOf_some {m : MarkOp} (h : m.mark = 0 ∨ (m.mark = 1 ∧ m.value ≤ 11)) :
    ∃ f, filterOf m = some f ∧ ∀ c : ChanId, filterPasses f c = true ↔ (m.mark = 1 → c.val = m.value) := by
  unfold filterOf
  rcases h with h | ⟨h, hv⟩
  · exact ⟨none, if_pos h, fun c => by simp [filterPasses, h]⟩
  · refine ⟨some ⟨m.value, by omega⟩, ?_, fun c => ?_⟩
    · rw [if_neg (by omega), if_pos h, (chanOf_some m.value ⟨m.value, by omega⟩).2 rfl]
      rfl
    · rw [filterPasses, Option.all_some, beq_iff_eq, Fin.ext_iff]
      exact ⟨fun hc _ => hc.symm, fun hc => (hc h).symm⟩

theorem filterOf_none {m : MarkOp} (h : ¬(m.mark = 0 ∨ (m.mark = 1 ∧ m.value ≤ 11))) : filterOf m = none := by
  unfold filterOf
  rw [if_neg (by omega)]
  split
  · rw [(chanOf_none m.value).2 (by omega)]
    rfl
  · rfl

/-- R24: the entry found is the lowest-numbered one that passes. -/
theorem nextEntry_some {b : Body} {start e : EntryNo} {f : Option ChanId} {r : Live} (hl : b.dir[e].live = some r)
    (hs : start ≤ e) (hf : filterPasses f r.key.chan = true)
    (hleast : ∀ (d : EntryNo) (q : Live), b.dir[d].live = some q → start ≤ d → filterPasses f q.key.chan = true → e ≤ d) :
    b.nextEntry start f = some (e, r) := by
  have hfind : (b.numbered.find? fun x => decide (start ≤ x.1) && x.2.live.any fun r => filterPasses f r.key.chan) =
      some (e, b.dir[e]) := by
    refine (find_zip_some _ _ _ _).2 ⟨rfl, by simp only [hs, decide_true, hl, Option.any_some, hf, Bool.and_self], fun d hd => ?_⟩
    rw [← Bool.not_eq_true]
    intro hp
    obtain ⟨hsd, hany⟩ := Bool.and_eq_true_iff.1 hp
    obtain ⟨q, hq, hfq⟩ := (Option.any_eq_true ..).1 hany
    exact absurd hd (not_lt.2 (hleast d q hq (of_decide_eq_true hsd) hfq))
  unfold Body.nextEntry
  rw [hfind]
  simp only [Option.bind_some, hl, Option.map_some]

theorem nextEntry_none {b : Body} {start : EntryNo} {f : Option ChanId}
    (h : ∀ (d : EntryNo) (q : Live), b.dir[d].live = some q → start ≤ d → filterPasses f q.key.chan = false) : b.nextEntry start f = none := by
  have hfind : (b.numbered.find? fun x => decide (start ≤ x.1) && x.2.live.any fun r => filterPasses f r.key.chan) = none := by
    refine (find_zip_none _ _).2 fun d => ?_
    rw [← Bool.not_eq_true]
    intro hp
    obtain ⟨hsd, hany⟩ := Bool.and_eq_true_iff.1 hp
    obtain ⟨q, hq, hfq⟩ := (Option.any_eq_true ..).1 hany
    rw [h d q hq (of_decide_eq_true hsd)] at hfq
    cases hfq
  unfold Body.nextEntry
  rw [hfind]
  rfl

/-- Settles O17: the record of an entry byte by byte, and the search of the directory from a number on. -/
theorem readEntryAndNextEntry : Obligations.ReadEntryAndNextEntry := by
  unfold Obligations.ReadEntryAndNextEntry
  refine ⟨fun s p tag n hasked => ⟨fun hn => refused_of hasked rfl rfl (by simp only [(entryOf_none n).2 hn]),
    fun e he => ?read⟩, fun s p tag n m hasked => ?next⟩
  case read =>
    have hanswer : Answers s p tag (.readEntry n) s .ok (s.body.dir[e].record e) :=
      answers_of hasked rfl rfl (by simp only [(entryOf_some n e).2 he]; rfl)
    subst he
    refine ⟨fun hl => ?_, fun r hl => ⟨_, hanswer, ?_⟩⟩
    · rw [record_free hl] at hanswer
      exact hanswer
    · have hrepl := replBytes_eq r.repl
      have hreq := requestedBytes_eq r
      obtain ⟨x, y, z, hxyz⟩ := replBytes_three r.repl
      obtain ⟨x', y', z', hxyz'⟩ := requestedBytes_three r
      rw [record_live hl, ← presence_eq r]
      rw [hxyz] at hrepl ⊢
      rw [hxyz'] at hreq ⊢
      exact ⟨rfl, rfl, rfl, rfl, rfl, rfl, rfl, hrepl, hreq, rfl⟩
  case next =>
    intro rq inside passes
    refine ⟨fun h => ?outside, fun hn hin => ?inside⟩
    case outside =>
      refine refused_of hasked rfl rfl ?_
      by_cases hin : inside
      · simp only [(entryOf_none n).2 (h.resolve_right (not_not_intro hin))]
      · simp only [filterOf_none hin]
        cases entryOf n <;> rfl
    case inside =>
      obtain ⟨f, hf, hpasses⟩ := filterOf_some hin
      have hstart : entryOf n = some ⟨n, by omega⟩ := (entryOf_some n ⟨n, by omega⟩).2 rfl
      refine ⟨fun hnone => refused_of hasked rfl rfl ?_, fun e r hp hleast => answers_of hasked rfl rfl ?_⟩
      · have := nextEntry_none (b := s.body) (start := ⟨n, by omega⟩) (f := f) fun d q hl hs => by
          rw [← Bool.not_eq_true, hpasses]
          exact fun h => hnone d q ⟨hl, hs, h⟩
        simp only [hstart, hf, this]
      · obtain ⟨hl, hs, hm⟩ := hp
        have := nextEntry_some (start := ⟨n, by omega⟩) hl hs ((hpasses _).2 hm) fun d q hl hs h =>
          hleast d q ⟨hl, hs, (hpasses _).1 h⟩
        simp only [hstart, hf, this]
        rw [stateBytes_live hl, Key.bytes]
        cases r.key.row <;> rfl

/-! ### FIND -/

/-- Settles O18: the entry found by its key. -/
theorem findGivesTheEntryOfTheKey : Obligations.FindGivesTheEntryOfTheKey := by
  unfold Obligations.FindGivesTheEntryOfTheKey
  intro s p tag o hasked
  refine ⟨fun h => refused_of hasked rfl rfl (by simp only [(validKey_none _ _).2 h]), fun k hk => ?_⟩
  have hkey := (validKey_iff _ _ _).2 hk
  refine ⟨fun h => refused_of hasked rfl rfl (by simp only [hkey, findKey_none.2 h]), fun e r hl hr hu => ?_⟩
  refine answers_of hasked rfl rfl ?_
  simp only [hkey, findKey_some hl hr fun d q hd hq => hu d q hd (hq.trans hr), stateBytes_live hl]
  rfl

/-! ### READ_WATCH and FIND_WATCH -/

/-- R60: the record found is the lowest-indexed one that passes. -/
theorem nextWatch_some {b : Body} {start : Nat} {i : WatchNo} {f : Option ChanId} {w : Watch} (hw : b.watch[i] = some w)
    (hs : start ≤ i.val) (hf : filterPasses f w.chan = true)
    (hleast : ∀ (j : WatchNo) (v : Watch), b.watch[j] = some v → start ≤ j.val → filterPasses f v.chan = true → i ≤ j) :
    b.nextWatch start f = some (i, w) := by
  have hfind : (b.numberedWatch.find? fun x => decide (start ≤ x.1.val) && x.2.any fun w => filterPasses f w.chan) =
      some (i, some w) := by
    refine (find_zip_some _ _ _ _).2 ⟨hw, by simp only [hs, decide_true, Option.any_some, hf, Bool.and_self], fun j hj => ?_⟩
    rw [← Bool.not_eq_true]
    intro hp
    obtain ⟨hsj, hany⟩ := Bool.and_eq_true_iff.1 hp
    obtain ⟨v, hv, hfv⟩ := (Option.any_eq_true ..).1 hany
    exact absurd hj (not_lt.2 (hleast j v hv (of_decide_eq_true hsj) hfv))
  unfold Body.nextWatch
  rw [hfind]
  rfl

theorem nextWatch_none {b : Body} {start : Nat} {f : Option ChanId}
    (h : ∀ (j : WatchNo) (v : Watch), b.watch[j] = some v → start ≤ j.val → filterPasses f v.chan = false) : b.nextWatch start f = none := by
  have hfind : (b.numberedWatch.find? fun x => decide (start ≤ x.1.val) && x.2.any fun w => filterPasses f w.chan) = none := by
    refine (find_zip_none _ _).2 fun j => ?_
    rw [← Bool.not_eq_true]
    intro hp
    obtain ⟨hsj, hany⟩ := Bool.and_eq_true_iff.1 hp
    obtain ⟨v, hv, hfv⟩ := (Option.any_eq_true ..).1 hany
    rw [h j v hv (of_decide_eq_true hsj)] at hfv
    cases hfv
  unfold Body.nextWatch
  rw [hfind]
  rfl

/-- Settles O19: the search of the watch table from an index on, and for a row. -/
theorem readWatchAndFindWatch : Obligations.ReadWatchAndFindWatch := by
  unfold Obligations.ReadWatchAndFindWatch
  refine ⟨fun s p tag n m hasked => ?read, fun s p tag n bank row hasked => ?find⟩
  case read =>
    intro rq inside used passes
    have hused : be2 s.body.watchCount = used := by
      unfold Body.watchCount
      rw [countP_toList]
    refine ⟨fun h => ?outside, fun hn hin => ?inside⟩
    case outside =>
      refine refused_of hasked rfl rfl ?_
      by_cases hin : inside
      · obtain ⟨f, hf, -⟩ := filterOf_some hin
        simp only [hf, h.resolve_right (not_not_intro hin), if_true]
      · simp only [filterOf_none hin]
    case inside =>
      obtain ⟨f, hf, hpasses⟩ := filterOf_some hin
      have hn : ¬255 < n := by omega
      refine ⟨fun hnone => answers_of hasked rfl rfl ?_, fun i w hp hleast => answers_of hasked rfl rfl ?_⟩
      · have := nextWatch_none (b := s.body) (start := n) (f := f) fun j v hv hs => by
          rw [← Bool.not_eq_true, hpasses]
          exact fun h => hnone j v ⟨hv, hs, h⟩
        simp only [hf, hn, if_false, this, hused]
      · obtain ⟨hw, hs, hm⟩ := hp
        have := nextWatch_some hw hs ((hpasses _).2 hm) fun j v hv hs h => hleast j v ⟨hv, hs, (hpasses _).1 h⟩
        simp only [hf, hn, if_false, this, hused, State.accept, Key.bytes, rowKeyBytes, Watch.bytes, List.append_assoc]
  case find =>
    intro rq holds
    refine ⟨fun h => ?outside, fun hn hb hr => ?inside⟩
    case outside =>
      refine refused_of hasked rfl rfl ?_
      cases hc : chanOf n with
      | none => rfl
      | some c =>
        have hn : ¬11 < n := fun hn => by
          rw [(chanOf_none n).2 hn] at hc
          cases hc
        exact if_pos (h.resolve_left hn)
    case inside =>
      obtain ⟨c, hc⟩ : ∃ c : ChanId, c.val = n := ⟨⟨n, by omega⟩, rfl⟩
      have hin : ¬(31 < bank ∨ 131071 < row) := by omega
      have hfor : ∀ w : Watch, w.isFor c bank row = true ↔ w.chan.val = n ∧ w.bank = bank ∧ w.row = row := fun w => by
        rw [Keeping.isFor_iff, ← hc, Fin.ext_iff]
      refine ⟨fun hnone => refused_of hasked rfl rfl ?_, fun i w hw hu => answers_of hasked rfl rfl ?_⟩
      · have : (s.body.numberedWatch.find? fun x => x.2.any (·.isFor c bank row)) = none := by
          refine (find_zip_none _ _).2 fun j => ?_
          rw [← Bool.not_eq_true]
          intro hany
          obtain ⟨v, hv, hf⟩ := (Option.any_eq_true ..).1 hany
          exact hnone j v ⟨hv, (hfor v).1 hf⟩
        simp only [(chanOf_some n c).2 hc, hin, if_false, this]
      · obtain ⟨hw, hkey⟩ := hw
        have : (s.body.numberedWatch.find? fun x => x.2.any (·.isFor c bank row)) = some (i, some w) := by
          refine (find_zip_some _ _ _ _).2 ⟨hw, (hfor w).2 hkey, fun j hj => ?_⟩
          rw [← Bool.not_eq_true]
          intro hany
          obtain ⟨v, hv, hf⟩ := (Option.any_eq_true ..).1 hany
          exact absurd (hu j v ⟨hv, (hfor v).1 hf⟩) (ne_of_lt hj)
        simp only [(chanOf_some n c).2 hc, hin, if_false, this, State.accept, Watch.bytes, List.append_assoc]

/-! ### READ_CAUSE -/

theorem maskOf_eq (p : Fin 10 → Bool) :
    maskOf ((allConds.filter p).map (·.val)) = ((List.finRange 10).map fun n => if p n then 2 ^ n.val else 0).sum := by
  unfold maskOf allConds
  rw [List.map_map]
  exact sum_map_filter p (fun n : Fin 10 => 2 ^ n.val) _

theorem causeNo_none {b : Body} (h : ∀ n : Fin 10, ¬(b.att[n].pending = true ∧ b.att[n].enable = true)) : b.causeNo = none := by
  refine List.find?_eq_none.2 fun n _ => ?_
  rw [Bool.and_eq_true_iff]
  exact h n

theorem causeNo_some {b : Body} {n : Fin 10} (h : b.att[n].pending = true ∧ b.att[n].enable = true)
    (hleast : ∀ m : Fin 10, b.att[m].pending = true ∧ b.att[m].enable = true → n ≤ m) : b.causeNo = some n := by
  refine find_finRange_some.2 ⟨Bool.and_eq_true_iff.2 h, fun m hm => ?_⟩
  rw [← Bool.not_eq_true, Bool.and_eq_true_iff]
  exact fun hp => absurd hm (not_lt.2 (hleast m hp))

/-- The channels that meet a level condition: the lowest-numbered one, and whether there is another. -/
theorem filter_head_more {p : ChanId → Bool} {c : ChanId} (h : p c = true) (hleast : ∀ d, p d = true → c ≤ d) :
    (allChans.filter p).head? = some c ∧ (2 ≤ (allChans.filter p).length ↔ ∃ d, p d = true ∧ d ≠ c) := by
  have hhead : (allChans.filter p).head? = some c := by
    rw [List.head?_filter]
    refine find_finRange_some.2 ⟨h, fun d hd => ?_⟩
    rw [← Bool.not_eq_true]
    exact fun hp => absurd hd (not_lt.2 (hleast d hp))
  refine ⟨hhead, (two_le_length_iff ((List.nodup_finRange 12).filter _) hhead).trans ?_⟩
  simp [List.mem_filter]

theorem meetsBudget_iff {env : Env} {b : Body} {c : ChanId} : b.meetsBudget env c = true ↔
    b.chan[c].state = .test ∧ env.items.bootBudget ≤ b.elapsed env c := by
  simp [Body.meetsBudget]

theorem meetsPoolLow_iff {env : Env} {b : Body} {c : ChanId} : b.meetsPoolLow env c = true ↔
    b.chan[c].state = .service ∧ b.freeSlots c < env.items.poolLowMark := by
  simp [Body.meetsPoolLow]

theorem causeValue_edge {env : Env} {b : Body} {n : Fin 10} (h5 : n.val ≠ 5) (h6 : n.val ≠ 6) :
    b.causeValue env n = (b.att[n].value, b.att[n].more) := by
  refine if_neg ?_
  rw [isLevel, Bool.or_eq_true_iff, beq_iff_eq, beq_iff_eq, Fin.ext_iff, Fin.ext_iff]
  exact fun h => h.elim h5 h6

theorem causeValue_level {env : Env} {b : Body} {n : Fin 10} {p : ChanId → Bool} {c : ChanId} (hn : isLevel n = true)
    (hp : b.levelChans env n = allChans.filter p) (h : p c = true) (hleast : ∀ d, p d = true → c ≤ d)
    [Decidable (∃ d, p d = true ∧ d ≠ c)] :
    b.causeValue env n = (some (b.levelValue env n c), decide (∃ d, p d = true ∧ d ≠ c)) := by
  obtain ⟨hhead, hmore⟩ := filter_head_more h hleast
  unfold Body.causeValue
  rw [if_pos hn, hp, hhead]
  simp only [Option.map_some, hmore]

theorem causeBytes_none {env : Env} {b : Body} (h : b.causeNo = none) : b.causeBytes env =
    zeros 2 ++ zeros 7 ++ zeros 2 ++ b.pendingMask ++ b.enabledMask ++ (allConds.flatMap fun n => be1 b.att[n].line.code) := by
  unfold Body.causeBytes
  rw [h]
  rfl

theorem causeBytes_some {env : Env} {b : Body} {n : Fin 10} (h : b.causeNo = some n) : b.causeBytes env =
    (1#8 :: be1 n.val) ++ optField 6 CondValue.bytes (b.causeValue env n).1 ++ (1#8 :: yesNo (b.causeValue env n).2) ++
      b.pendingMask ++ b.enabledMask ++ (allConds.flatMap fun n => be1 b.att[n].line.code) := by
  unfold Body.causeBytes
  rw [h]
  rfl

theorem valueBytes_eq (o : Option CondValue) : optField 6 CondValue.bytes o = match o with
    | none => zeros 7
    | some (.failed c cause) => [1#8] ++ be1 c.val ++ be1 cause.code ++ zeros 4
    | some (.key k) => [1#8] ++ be1 k.chan.val ++ be1 k.bank ++ (match k.row with
      | some row => be1 0 ++ be3 row
      | none => be1 1 ++ zeros 3)
    | some (.channel c) => [1#8] ++ be1 c.val ++ zeros 5
    | some (.testDone c skipped repairs) => [1#8] ++ be1 c.val ++ be1 skipped ++ be2 repairs ++ zeros 2
    | some (.budget c ms) => [1#8] ++ be1 c.val ++ be4 ms ++ zeros 1
    | some (.poolLow c free) => [1#8] ++ be1 c.val ++ be1 free ++ zeros 4 := by
  cases o with
  | none => rfl
  | some v =>
    cases v with
    | key k => obtain ⟨_, _, row⟩ := k; cases row <;> rfl
    | _ => rfl

/-- Settles O20: the lowest condition that is shown, and its value by its kind. -/
theorem readCauseNamesTheMostUrgent : Obligations.ReadCauseNamesTheMostUrgent := by
  unfold Obligations.ReadCauseNamesTheMostUrgent
  intro s p tag hasked b tail shown pastBudget lowPool
  have hanswer : ∀ {payload}, b.causeBytes s.env = payload → Answers s p tag .readCause s .ok payload :=
    fun h => answers_of hasked rfl rfl (congrArg s.accept h)
  have htail : b.pendingMask ++ b.enabledMask ++ (allConds.flatMap fun n => be1 b.att[n].line.code) = tail := by
    unfold Body.pendingMask Body.enabledMask
    rw [maskOf_eq, maskOf_eq]
    rfl
  refine ⟨fun hnone => hanswer ?none, fun n hn hleast => ?some⟩
  case none =>
    rw [causeBytes_none (causeNo_none hnone), List.append_assoc, List.append_assoc _ b.pendingMask, ← List.append_assoc b.pendingMask,
      htail]
  case some =>
    have hbytes : ∀ {value more}, b.causeValue s.env n = (value, more) → b.causeBytes s.env =
        [1#8, BitVec.ofNat 8 n.val] ++ optField 6 CondValue.bytes value ++ [1#8, if more then 1#8 else 0#8] ++ tail := by
      intro value more hv
      have hyes : yesNo more = [if more then 1#8 else 0#8] := by cases more <;> rfl
      rw [causeBytes_some (causeNo_some hn hleast), hv, hyes, ← htail]
      simp [be1]
    refine ⟨fun h5 h6 => hanswer ?edge, fun h5 c hc hmin => hanswer ?budget, fun h6 c hc hmin => hanswer ?pool⟩
    case edge =>
      rw [hbytes (causeValue_edge h5 h6), valueBytes_eq] <;> rfl
    case budget =>
      classical
      obtain rfl : n = 5 := Fin.ext h5
      have hv := causeValue_level (b := b) (env := s.env) (n := 5) (p := b.meetsBudget s.env) (c := c) rfl rfl
        (meetsBudget_iff.2 hc) fun d hd => hmin d (meetsBudget_iff.1 hd)
      rw [hbytes hv]
      simp only [meetsBudget_iff, decide_eq_true_eq]
      rfl
    case pool =>
      classical
      obtain rfl : n = 6 := Fin.ext h6
      have hv := causeValue_level (b := b) (env := s.env) (n := 6) (p := b.meetsPoolLow s.env) (c := c) rfl rfl
        (meetsPoolLow_iff.2 hc) fun d hd => hmin d (meetsPoolLow_iff.1 hd)
      rw [hbytes hv]
      simp only [meetsPoolLow_iff, decide_eq_true_eq]
      rfl

/-! ### READ_PLAN and READ_CONFIG -/

/-- Settles O21: the slot as it stands. -/
theorem readPlanGivesTheSlot : Obligations.ReadPlanGivesTheSlot := by
  unfold Obligations.ReadPlanGivesTheSlot
  intro s p tag n hasked
  refine ⟨fun hn => refused_of hasked rfl rfl (by simp only [(slotOf_none n).2 hn]), fun i hi => ⟨fun hx => ?_, fun x hx => ?_⟩⟩ <;>
    refine answers_of hasked rfl rfl ?_ <;> simp only [(slotOf_some n i).2 hi, hx] <;> rfl

/-- Settles O22: all items, or one with its range and default. -/
theorem readConfigGivesTheItems : Obligations.ReadConfigGivesTheItems := by
  unfold Obligations.ReadConfigGivesTheItems
  intro s p tag m hasked i table
  refine ⟨fun hm => ?all, fun x hm hx => ?one, fun h => ?refused⟩
  case all =>
    refine answers_of hasked rfl rfl ?_
    simp only [hm, if_true]
    rfl
  case one =>
    have hlt : m.value < 14 := by
      by_contra hc
      rw [List.getElem?_eq_none (by simpa [table] using hc)] at hx
      cases hx
    have hanswer : Answers s p tag (.readConfig m) s .ok (s.items.itemBytes m.value) := by
      refine answers_of hasked rfl rfl ?_
      have h0 : m.mark ≠ 0 := by omega
      have h1 : m.mark = 1 ∧ m.value ≤ 13 := by omega
      exact (if_neg h0).trans (if_pos h1)
    generalize m.value = k at hx hlt hanswer
    constructor
    · intro h12
      interval_cases k <;> cases hx <;> exact hanswer
    · intro h12
      interval_cases k <;> cases hx <;> exact hanswer
  case refused =>
    refine refused_of hasked rfl rfl ?_
    have h0 : m.mark ≠ 0 := by omega
    have h1 : ¬(m.mark = 1 ∧ m.value ≤ 13) := by omega
    simp only [h0, h1, if_false]

end Sys2Proof.Proofs.Inspect
end

section
/-! SUPPORT. Several channels settled one after the other (R21): what settling leaves does not depend on the records that it does not
read, settlings of different channels combine, and so does an operation that settles each channel of a list. -/

namespace Sys2Proof.Proofs.SettleMany

open Sys2Proof Sys2Proof.Machine Sys2Proof.Laws

/-! ### Settled channels apart from each other -/

/-- A settled entry keeps its key, if it is not freed. -/
theorem settled_key {x : Entry} {q : Live} (h : x.settled.live = some q) : ∃ r, x.live = some r ∧ q.key = r.key := by
  unfold Entry.settled at h
  cases hl : x.live with
  | none =>
    rw [hl] at h
    dsimp only at h
    rw [hl] at h
    cases h
  | some r =>
    rw [hl] at h
    dsimp only at h
    refine ⟨r, rfl, ?_⟩
    split at h
    case h_1 | h_2 => cases h; rfl
    case h_3 | h_4 | h_5 => cases h
    all_goals
      rw [hl] at h
      cases h
      rfl

section Settled

variable {cs : ChanId → Prop} {b b1 : Body}

/-- Entries of a channel that is not settled are as before. -/
theorem settled_other (h : Settled cs b b1) {c : ChanId} (hc : ¬cs c) (e : EntryNo) {r : Live} (hr : r.key.chan = c) :
    b1.dir[e].live = some r ↔ b.dir[e].live = some r := by
  obtain ⟨-, hdir, -⟩ := h
  by_cases hin : ∃ q, b.dir[e].live = some q ∧ cs q.key.chan
  · obtain ⟨q, hq, hcs⟩ := hin
    constructor
    · intro hl
      rw [(hdir e).1 ⟨q, hq, hcs⟩] at hl
      obtain ⟨q', hq', hkey⟩ := settled_key hl
      rw [hq] at hq'
      cases hq'
      rw [← hkey, hr] at hcs
      exact absurd hcs hc
    · intro hl
      rw [hq] at hl
      cases hl
      rw [hr] at hcs
      exact absurd hcs hc
  · rw [(hdir e).2 fun q hq hcs => hin ⟨q, hq, hcs⟩]

theorem settleFrees_other (h : Settled cs b b1) {c : ChanId} (hc : ¬cs c) (e : EntryNo) (r : Live) :
    SettleFrees b1 c e r ↔ SettleFrees b c e r := by
  unfold SettleFrees
  constructor
  · rintro ⟨hl, hr, hst⟩
    exact ⟨(settled_other h hc e hr).1 hl, hr, hst⟩
  · rintro ⟨hl, hr, hst⟩
    exact ⟨(settled_other h hc e hr).2 hl, hr, hst⟩

/-- The row exclusions that settling a channel frees, counted. -/
theorem freedExclusions_other (h : Settled cs b b1) {c : ChanId} (hc : ¬cs c) :
    ((List.finRange 1024).countP fun e => b1.dir[e].live.any fun r =>
      decide (r.key.chan = c ∧ r.st ∈ [.retireWait, .retireFencing, .removing] ∧ r.repl = some .exclude ∧ r.key.row ≠ none)) =
    (List.finRange 1024).countP fun e => b.dir[e].live.any fun r =>
      decide (r.key.chan = c ∧ r.st ∈ [.retireWait, .retireFencing, .removing] ∧ r.repl = some .exclude ∧ r.key.row ≠ none) := by
  refine List.countP_congr fun e _ => ?_
  simp only [Option.any_eq_true, decide_eq_true_eq]
  exact ⟨fun ⟨r, hl, hr⟩ => ⟨r, (settled_other h hc e hr.1).1 hl, hr⟩,
    fun ⟨r, hl, hr⟩ => ⟨r, (settled_other h hc e hr.1).2 hl, hr⟩⟩

/-- Channels settled after others, which they are apart from: all of them are settled. -/
theorem settled_trans {ds : ChanId → Prop} {b2 : Body} (h : Settled cs b b1) (h' : Settled ds b1 b2) (hapart : ∀ c, cs c → ¬ds c) :
    Settled (fun c => cs c ∨ ds c) b b2 := by
  have hother := fun {c : ChanId} (hc : ¬cs c) => settleFrees_other h hc
  have hcount := fun {c : ChanId} (hc : ¬cs c) => freedExclusions_other h hc
  obtain ⟨hrest, hdir, hinv, hfence, hqueue, hchan⟩ := h
  obtain ⟨hrest', hdir', hinv', hfence', hqueue', hchan'⟩ := h'
  refine ⟨?rest, fun e => ⟨?entries, ?others⟩, fun c => ⟨?same, fun v hc hv => ?inv⟩, fun f => ?unit, fun c f hf => ⟨?empty, ?queues⟩,
    fun c => ⟨?record, ?list, ?rows⟩⟩
  case rest =>
    calc b2 = { b1 with dir := b2.dir, inv := b2.inv, chan := b2.chan, fence := b2.fence } := hrest'
      _ = { b with dir := b2.dir, inv := b2.inv, chan := b2.chan, fence := b2.fence } := by rw [hrest]
  case entries =>
    rintro ⟨r, hl, hc | hc⟩
    · have hset := (hdir e).1 ⟨r, hl, hc⟩
      rw [← hset]
      refine (hdir' e).2 fun q hq hds => ?_
      rw [hset] at hq
      obtain ⟨r', hl', hkey⟩ := settled_key hq
      rw [hl] at hl'
      cases hl'
      rw [hkey] at hds
      exact hapart _ hc hds
    · have hsame : b1.dir[e] = b.dir[e] := (hdir e).2 fun q hq hcs => by
        rw [hl] at hq
        cases hq
        exact hapart _ hcs hc
      rw [← hsame]
      exact (hdir' e).1 ⟨r, by rw [hsame]; exact hl, hc⟩
  case others =>
    intro hnone
    have hsame : b1.dir[e] = b.dir[e] := (hdir e).2 fun q hq hcs => hnone q hq (.inl hcs)
    rw [← hsame]
    exact (hdir' e).2 fun q hq hds => hnone q (by rw [← hsame]; exact hq) (.inr hds)
  case same =>
    intro hc
    have hb1 : b1.inv[c] = b.inv[c] := (hinv c).1 (hc.imp_left fun h => fun hcs => h (.inl hcs))
    rw [← hb1]
    exact (hinv' c).1 (by rw [hb1]; exact hc.imp_left fun h => fun hds => h (.inr hds))
  case inv =>
    by_cases hcs : cs c
    · rw [(hinv' c).1 (.inl (hapart c hcs))]
      exact (hinv c).2 v hcs hv
    · have hb1 : b1.inv[c] = some v := by
        rw [(hinv c).1 (.inl hcs)]
        exact hv
      obtain ⟨w, hw, hgeo, hslots, hspares, hex⟩ := (hinv' c).2 v (hc.resolve_left hcs) hb1
      simp only [hother hcs] at hslots hspares
      rw [hcount hcs] at hex
      exact ⟨w, hw, hgeo, hslots, hspares, hex⟩
  case unit => rw [hfence' f, hfence f]
  case empty =>
    rintro (hcs | hds)
    · rw [(hqueue' c f hf).2 (hapart c hcs)]
      exact (hqueue c f hf).1 hcs
    · exact (hqueue' c f hf).1 hds
  case queues =>
    intro hc
    rw [(hqueue' c f hf).2 fun hds => hc (.inr hds)]
    exact (hqueue c f hf).2 fun hcs => hc (.inl hcs)
  case record => rw [(hchan' c).1, (hchan c).1]
  case list =>
    intro hc
    rw [(hchan' c).2.1 fun hds => hc (.inr hds)]
    exact (hchan c).2.1 fun hcs => hc (.inl hcs)
  case rows =>
    intro hc
    by_cases hcs : cs c
    · rw [(hchan' c).2.1 (hapart c hcs)]
      exact (hchan c).2.2 hcs
    · have hrows := (hchan' c).2.2 (hc.resolve_left hcs)
      rw [(hchan c).2.1 hcs] at hrows
      simp only [hother hcs] at hrows
      exact hrows

open Classical in
/-- The blocks `z` with what settling made of the blocks `y`: directory, fence queues, and of the settled channels' inventories and
REPAIRED lists. -/
noncomputable def settledLike (cs : ChanId → Prop) (y z : Body) : Body :=
  { z with
    dir := y.dir, fence := y.fence
    inv := Vector.ofFn fun c => if cs c then y.inv[c] else z.inv[c]
    chan := Vector.ofFn fun c => { z.chan[c] with repaired := if cs c then y.chan[c].repaired else z.chan[c].repaired } }

theorem settledLike_inv {y z : Body} {c : ChanId} (hc : cs c) : (settledLike cs y z).inv[c] = y.inv[c] := by
  simp [settledLike, hc]

theorem settledLike_inv_other {y z : Body} {c : ChanId} (hc : ¬cs c) : (settledLike cs y z).inv[c] = z.inv[c] := by
  simp [settledLike, hc]

theorem settledLike_chan {y z : Body} {c : ChanId} (hc : cs c) :
    (settledLike cs y z).chan[c] = { z.chan[c] with repaired := y.chan[c].repaired } := by
  simp [settledLike, hc]

theorem settledLike_chan_other {y z : Body} {c : ChanId} (hc : ¬cs c) : (settledLike cs y z).chan[c] = z.chan[c] := by
  simp [settledLike, hc]

/-- Settling depends on the directory, the fence units, and of the settled channels on inventory and REPAIRED list alone. -/
theorem settled_transfer {x y z : Body} (h : Settled cs x y) (hdir : x.dir = z.dir) (hfence : x.fence = z.fence)
    (hinv : ∀ c, cs c → x.inv[c] = z.inv[c]) (hrep : ∀ c, cs c → x.chan[c].repaired = z.chan[c].repaired) :
    Settled cs z (settledLike cs y z) := by
  obtain ⟨-, hdir', hinv', hfence', hqueue', hchan'⟩ := h
  have hfrees : ∀ c e r, SettleFrees x c e r ↔ SettleFrees z c e r := fun c e r => by rw [SettleFrees, SettleFrees, hdir]
  refine ⟨rfl, ?entries, fun c => ⟨fun hc => ?same, fun v hc hv => ?inv⟩, ?unit, ?queues, fun c => ⟨?record, ?list, fun hc => ?rows⟩⟩
  case entries =>
    rw [hdir] at hdir'
    exact hdir'
  case same =>
    by_cases hcs : cs c
    · rw [settledLike_inv hcs, (hinv' c).1 (.inr ((hinv c hcs).trans (hc.resolve_left (not_not_intro hcs)))), hinv c hcs]
    · exact settledLike_inv_other hcs
  case inv =>
    rw [settledLike_inv hc]
    have hall := (hinv' c).2 v hc ((hinv c hc).trans hv)
    simp only [hfrees, hdir] at hall
    exact hall
  case unit =>
    rw [hfence] at hfence'
    exact hfence'
  case queues =>
    rw [hfence] at hqueue'
    exact hqueue'
  case record => simp [settledLike]
  case list => exact fun hc => by rw [settledLike_chan_other hc]
  case rows =>
    rw [settledLike_chan hc]
    have hall := (hchan' c).2.2 hc
    simp only [hfrees, hrep c hc] at hall
    exact hall

theorem settled_congr {ds : ChanId → Prop} (h : Settled cs b b1) (he : ∀ c, cs c ↔ ds c) : Settled ds b b1 := by
  obtain rfl : cs = ds := funext fun c => propext (he c)
  exact h

end Settled

/-- No channel settled is nothing changed. -/
theorem settled_none (b : Body) : Settled (fun _ => False) b b := by
  refine ⟨rfl, fun e => ⟨fun ⟨_, _, h⟩ => h.elim, fun _ => rfl⟩, fun c => ⟨fun _ => rfl, fun _ h => h.elim⟩, fun _ => rfl,
    fun c f _ => ⟨fun h => h.elim, fun _ => rfl⟩, fun c => ⟨rfl, fun _ => rfl, fun h => h.elim⟩⟩

/-! ### An operation that settles each channel of a list -/

/-- What an operation on one channel makes of its records: of the inventory after settling, of the channel and the link before it and
the REPAIRED list after it, and of the link. -/
structure Effect where
  inv : Option Inventory → Option Inventory
  chan : Channel → Link → List RowKey → Channel
  link : Link → Link

/-- The blocks `y` are `x` with the channels of `cs` settled, which gave `w`, and with the effect on each of them. -/
structure SettledWith (f : Effect) (cs : ChanId → Prop) (x w y : Body) : Prop where
  settled : Settled cs x w
  rest : y = { w with inv := y.inv, chan := y.chan, link := y.link }
  others : ∀ c, ¬cs c → y.inv[c] = x.inv[c] ∧ y.chan[c] = x.chan[c] ∧ y.link[c] = x.link[c]
  inv : ∀ c, cs c → y.inv[c] = f.inv w.inv[c]
  chan : ∀ c, cs c → y.chan[c] = f.chan x.chan[c] x.link[c] w.chan[c].repaired
  link : ∀ c, cs c → y.link[c] = f.link x.link[c]

/-- The operation carried out on further channels. -/
theorem SettledWith.trans {f : Effect} {cs ds : ChanId → Prop} {x w y v z : Body} (h : SettledWith f cs x w y)
    (h' : SettledWith f ds y v z) (hapart : ∀ c, cs c → ¬ds c) :
    SettledWith f (fun c => cs c ∨ ds c) x (settledLike ds v w) z := by
  have hnot : ∀ c, ds c → ¬cs c := fun c hd hc => hapart c hc hd
  have hdir : y.dir = w.dir := by rw [h.rest]
  have hfence : y.fence = w.fence := by rw [h.rest]
  obtain ⟨-, -, hinv, -, -, hchan⟩ := id h.settled
  have hw := settled_transfer h'.settled hdir hfence
    (fun c hd => ((h.others c (hnot c hd)).1).trans ((hinv c).1 (.inl (hnot c hd))).symm)
    (fun c hd => (congrArg Channel.repaired (h.others c (hnot c hd)).2.1).trans ((hchan c).2.1 (hnot c hd)).symm)
  refine ⟨settled_trans h.settled hw hapart, ?rest, fun c hc => ?others, fun c hc => ?inv, fun c hc => ?chan, fun c hc => ?link⟩
  case rest =>
    obtain ⟨hrest', -⟩ := h'.settled
    have hwatch : v.watch = w.watch := by
      rw [hrest']
      show y.watch = _
      rw [h.rest]
    have hatt : v.att = w.att := by
      rw [hrest']
      show y.att = _
      rw [h.rest]
    calc z = { v with inv := z.inv, chan := z.chan, link := z.link } := h'.rest
      _ = _ := by
        unfold settledLike
        rw [← hwatch, ← hatt]
  case others =>
    obtain ⟨hi, hch, hl⟩ := h'.others c fun hd => hc (.inr hd)
    obtain ⟨hi', hch', hl'⟩ := h.others c fun hd => hc (.inl hd)
    exact ⟨hi.trans hi', hch.trans hch', hl.trans hl'⟩
  case inv =>
    by_cases hd : ds c
    · rw [h'.inv c hd, settledLike_inv hd]
    · rw [(h'.others c hd).1, settledLike_inv_other hd]
      exact h.inv c (hc.resolve_right hd)
  case chan =>
    by_cases hd : ds c
    · obtain ⟨-, hch, hl⟩ := h.others c (hnot c hd)
      rw [h'.chan c hd, settledLike_chan hd, hch, hl]
    · rw [(h'.others c hd).2.1, settledLike_chan_other hd]
      exact h.chan c (hc.resolve_right hd)
  case link =>
    by_cases hd : ds c
    · rw [h'.link c hd, (h.others c (hnot c hd)).2.2]
    · rw [(h'.others c hd).2.2]
      exact h.link c (hc.resolve_right hd)

theorem SettledWith.att {f : Effect} {cs : ChanId → Prop} {x w y : Body} (h : SettledWith f cs x w y) : y.att = x.att := by
  obtain ⟨hrest, -⟩ := h.settled
  rw [h.rest, hrest]

/-- An effect that leaves the overflow mark of each link leaves no overflow where there was none. -/
theorem SettledWith.noOverflow {f : Effect} {cs : ChanId → Prop} {x w y : Body} (h : SettledWith f cs x w y) (ho : NoOverflow x)
    (hf : ∀ k, (f.link k).overflow = k.overflow) : NoOverflow y := by
  intro c
  by_cases hc : cs c
  · rw [h.link c hc, hf]
    exact ho c
  · rw [(h.others c hc).2.2]
    exact ho c

/-- An operation that settles a channel and has this effect on it, carried out on each channel of a list. -/
theorem foldl_settledWith {f : Effect} {op : Body → ChanId → Body} {ok : Link → Prop}
    (hop : ∀ b c, ok b.link[c] → ∃ w, SettledWith f (· = c) b w (op b c)) : ∀ (cs : List ChanId) (b : Body), cs.Nodup →
    (∀ c ∈ cs, ok b.link[c]) → ∃ w, SettledWith f (· ∈ cs) b w (cs.foldl op b)
  | [], b, _, _ => ⟨b, settled_congr (settled_none b) fun c => by simp, rfl, fun _ _ => ⟨rfl, rfl, rfl⟩,
      fun _ hc => absurd hc List.not_mem_nil, fun _ hc => absurd hc List.not_mem_nil, fun _ hc => absurd hc List.not_mem_nil⟩
  | c :: cs, b, hn, hok => by
    obtain ⟨hc, hcs⟩ := List.nodup_cons.1 hn
    obtain ⟨w, hw⟩ := hop b c (hok c List.mem_cons_self)
    obtain ⟨v, hv⟩ := foldl_settledWith hop cs (op b c) hcs fun d hd => by
      rw [(hw.others d fun he => hc (he ▸ hd)).2.2]
      exact hok d (List.mem_cons_of_mem _ hd)
    have hall := hw.trans hv fun d hd hmem => hc (hd ▸ hmem)
    have hmem : (fun d => d = c ∨ d ∈ cs) = (· ∈ c :: cs) := funext fun d => propext List.mem_cons.symm
    rw [hmem] at hall
    exact ⟨_, hall⟩

end Sys2Proof.Proofs.SettleMany
end

section
/-! SUPPORT. The requests of classes CONTROL and OWNER: masks, channels started and stopped, plan slots, configuration items, attention,
the grant mask and the control reset. -/

namespace Sys2Proof.Proofs.Control

open Sys2Proof Sys2Proof.Machine Sys2Proof.Laws Sys2Proof.Proofs.SettleMany

/-! ### Masks -/

/-- The low bits of a number, summed. -/
theorem sum_testBit (m k : Nat) :
    ((List.finRange k).map fun i => if m.testBit i.val then 2 ^ i.val else 0).sum = m % 2 ^ k := by
  induction k with
  | zero => simp [Nat.mod_one]
  | succ k ih =>
    rw [List.finRange_succ_last, List.map_append, List.sum_append, List.map_map, Nat.mod_pow_succ]
    refine congrArg₂ (· + ·) ih ?_
    rcases Nat.mod_two_eq_zero_or_one (m / 2 ^ k) with h | h <;> simp [Nat.testBit_eq_decide_div_mod_eq, h]

/-- The mask bytes of the channels that a mask names are the mask. -/
theorem channelMaskBytes_named {m : Nat} (h : m < 4096) :
    channelMaskBytes (allChans.filter fun c => m.testBit c.val) = be2 m := by
  have hsum : maskOf ((allChans.filter fun c => m.testBit c.val).map (·.val)) = m := by
    unfold maskOf
    rw [List.map_map]
    refine (Inspect.sum_map_filter _ (fun c : ChanId => 2 ^ c.val) _).trans ((sum_testBit m 12).trans (Nat.mod_eq_of_lt h))
  rw [channelMaskBytes, hsum]

/-- Every set of channels has a mask. -/
theorem exists_mask (p : ChanId → Bool) :
    ∃ m, m < 4096 ∧ (∀ c : ChanId, Names m c ↔ p c = true) ∧ channelMaskBytes (allChans.filter p) = be2 m := by
  have hlt : Nat.ofBits p < 4096 := Nat.ofBits_lt_two_pow p
  have hbit : ∀ c : ChanId, (Nat.ofBits p).testBit c.val = p c := fun c => Nat.testBit_ofBits_lt p c.val c.isLt
  refine ⟨Nat.ofBits p, hlt, fun c => by rw [Names, hbit], ?_⟩
  rw [← channelMaskBytes_named hlt]
  simp only [hbit]

theorem channelMask_none {n : Nat} (h : n = 0 ∨ 4096 ≤ n) : channelMask n = none := if_pos h

theorem channelMask_some {n : Nat} (h0 : 0 < n) (h : n < 4096) :
    channelMask n = some (allChans.filter fun c => n.testBit c.val) := if_neg (by omega)

theorem mem_named {m : Nat} {c : ChanId} : c ∈ allChans.filter (fun c => m.testBit c.val) ↔ Names m c := by
  rw [List.mem_filter]
  exact ⟨fun h => h.2, fun h => ⟨List.mem_finRange c, h⟩⟩

theorem conditionMask_none {n : Nat} (h : n = 0 ∨ 1024 ≤ n) : conditionMask n = none := if_pos h

theorem conditionMask_some {n : Nat} (h0 : 0 < n) (h : n < 1024) :
    conditionMask n = some (allConds.filter fun c => n.testBit c.val) := if_neg (by omega)

/-! ### Channels started -/

/-- The link can take a frame: it has met no overflow in this change, and its send queue is not full. -/
def HasRoom (k : Link) : Prop := k.overflow = false ∧ k.sendq.length < 176

/-- A link whose RELEASE frames are abandoned and to which, if it is UP, a message has been offered. -/
def Link.abandoned (k : Link) (m : Msg) : Link :=
  { k with
    sendq := (k.sendq.map fun q => { q with note := q.note.abandon }) ++ if k.state = .up then [⟨m, .none⟩] else []
    inflight := k.inflight.map fun f => { f with note := f.note.abandon } }

theorem abandon_offer {k : Link} (hk : HasRoom k) (m : Msg) :
    k.abandonReleases.offer ⟨m, .none⟩ = Link.abandoned k m := by
  unfold Link.offer Link.abandonReleases Link.abandoned
  by_cases h : k.state = .up
  · simp [h, hk.1, hk.2, Config.sendQueueMax]
  · simp [h]

theorem offer_abandon {k : Link} (hk : HasRoom k) (m : Msg) :
    (k.offer ⟨m, .none⟩).abandonReleases = Link.abandoned k m := by
  unfold Link.offer Link.abandonReleases Link.abandoned
  by_cases h : k.state = .up
  · simp [h, hk.1, hk.2, Config.sendQueueMax, Note.abandon]
  · simp [h]

/-- What START_TEST makes of a channel that it names (R65, R66). -/
def startEffect (env : Env) : Effect where
  inv := Option.map fun v => { v with tallies := v.tallies.map fun _ => 0 }
  chan ch k _ :=
    { state := .test, phase := some .discover, cause := none, runStart := some env.now, planPos := none, step := none,
      admission := .none, verifyRound := 0, roundFailed := false, repaired := [], skipped := 0, repairs := 0,
      releaseOut := false, nextToken := ch.nextToken, installPos := none, walkPos := none, awaited := none,
      linkWait := if k.state = .up then none else some env.items.discoverWait
      geomWait := if k.state = .up then some env.items.ackTimeout else none
      stepTimer := none }
  link k := Link.abandoned k .discover

/-- The records of the channels but for its REPAIRED list, and all those of the others. -/
theorem settle_chan (b : Body) (c d : ChanId) : (b.settle c).chan[d] = { b.chan[d] with repaired := (b.settle c).chan[d].repaired } := by
  obtain ⟨-, -, -, -, -, hchan⟩ := settle_settled b c
  exact (hchan d).1

theorem settle_link (b : Body) (c : ChanId) : (b.settle c).link = b.link := by
  obtain ⟨hrest, -⟩ := settle_settled b c
  rw [hrest]

theorem settle_others (b : Body) {c d : ChanId} (h : d ≠ c) :
    (b.settle c).inv[d] = b.inv[d] ∧ (b.settle c).chan[d] = b.chan[d] := by
  obtain ⟨-, -, hinv, -, -, hchan⟩ := settle_settled b c
  refine ⟨(hinv d).1 (.inl h), ?_⟩
  rw [(hchan d).1, (hchan d).2.1 h]

/-- A channel as START_TEST leaves it, but for the two waits. -/
def Channel.started (env : Env) (ch : Channel) : Channel :=
  { ch.quiet with
    state := .test, phase := some .discover, cause := none, runStart := some env.now, repaired := [], skipped := 0, repairs := 0
    verifyRound := 0, roundFailed := false }

/-- The blocks with the run of a channel started, before DISCOVER is sent or the link wait starts. -/
def runStarted (env : Env) (b : Body) (c : ChanId) : Body :=
  (((b.settle c).modInv c fun v => { v with tallies := v.tallies.map fun _ => 0 }).modLink c Link.abandonReleases).modChan c
    (Channel.started env)

theorem runStarted_link (env : Env) (b : Body) (c : ChanId) : (runStarted env b c).link[c] = b.link[c].abandonReleases := by
  unfold runStarted
  rw [modChan_link, modLink_same, modInv_link, settle_link]

theorem runStarted_chan (env : Env) (b : Body) (c : ChanId) : (runStarted env b c).chan[c] = Channel.started env b.chan[c] := by
  unfold runStarted
  rw [modChan_same, modLink_chan, modInv_chan, settle_chan]
  rfl

theorem runStarted_others (env : Env) (b : Body) {c d : ChanId} (h : d ≠ c) : (runStarted env b c).inv[d] = b.inv[d] ∧
    (runStarted env b c).chan[d] = b.chan[d] ∧ (runStarted env b c).link[d] = b.link[d] := by
  unfold runStarted
  refine ⟨(modInv_other _ _ (Ne.symm h)).trans (settle_others b h).1, ?_, ?_⟩
  · rw [modChan_other _ _ (Ne.symm h)]
    exact (settle_others b h).2
  · rw [modChan_link, modLink_other _ _ (Ne.symm h), modInv_link, settle_link]

theorem enterDiscover_up {env : Env} {b : Body} {c : ChanId} (h : b.link[c].state = .up) :
    b.enterDiscover env c = (runStarted env b c).sendDiscover env c := by
  refine if_pos ?_
  show ((runStarted env b c).link[c].state == .up) = true
  rw [runStarted_link]
  exact beq_iff_eq.2 h

theorem enterDiscover_down {env : Env} {b : Body} {c : ChanId} (h : b.link[c].state ≠ .up) :
    b.enterDiscover env c = (runStarted env b c).modChan c fun ch => { ch with linkWait := some env.items.discoverWait } := by
  refine if_neg ?_
  show ¬((runStarted env b c).link[c].state == .up) = true
  rw [runStarted_link]
  exact fun he => h (beq_iff_eq.1 he)

/-- START_TEST on one channel. -/
theorem enterDiscover_settles (env : Env) (b : Body) (c : ChanId) (hk : HasRoom b.link[c]) :
    SettledWith (startEffect env) (· = c) b (b.settle c) (b.enterDiscover env c) := by
  by_cases h : b.link[c].state = .up
  · rw [enterDiscover_up h]
    unfold Body.sendDiscover
    refine ⟨settle_settled b c, rfl, fun d hd => ?others, ?inv, ?chan, ?link⟩
    case others =>
      obtain ⟨hinv, hchan, hlink⟩ := runStarted_others env b hd
      rw [modChan_inv, offer_inv, modChan_other _ _ (Ne.symm hd), offer_chan, modChan_link, offer_other _ _ _ (Ne.symm hd)]
      exact ⟨hinv, hchan, hlink⟩
    case inv => exact fun d hd => hd ▸ modInv_same _ _ _
    case chan =>
      rintro d rfl
      rw [modChan_same, offer_chan, runStarted_chan]
      simp only [startEffect, h, if_true]
      rfl
    case link =>
      rintro d rfl
      rw [modChan_link, Body.offer, modLink_same, runStarted_link]
      exact abandon_offer hk .discover
  · rw [enterDiscover_down h]
    refine ⟨settle_settled b c, rfl, fun d hd => ?others, ?inv, ?chan, ?link⟩
    case others =>
      obtain ⟨hinv, hchan, hlink⟩ := runStarted_others env b hd
      rw [modChan_inv, modChan_other _ _ (Ne.symm hd), modChan_link]
      exact ⟨hinv, hchan, hlink⟩
    case inv => exact fun d hd => hd ▸ modInv_same _ _ _
    case chan =>
      rintro d rfl
      rw [modChan_same, runStarted_chan]
      simp only [startEffect, h, if_false]
      rfl
    case link =>
      rintro d rfl
      rw [modChan_link, runStarted_link]
      simp only [startEffect, Link.abandoned, h, if_false, List.append_nil]
      rfl

theorem startBusy_iff (st : ChanState) : st.startBusy = true ↔ st ∈ [.test, .service, .resync, .lost] := by
  cases st <;> simp [ChanState.startBusy]

/-- Settles O27: the checks of the mask, and the fold over the channels that it names. -/
theorem startTestStartsNamedChannels : Obligations.StartTestStartsNamedChannels := by
  unfold Obligations.StartTestStartsNamedChannels
  intro s p tag mask rq b hasked
  refine ⟨fun h => refused_of hasked rfl rfl (by simp only [channelMask_none h]), fun h0 hlt => ⟨fun hbusy => ?busy,
    fun hfree ho hroom => ?started⟩⟩
  case busy =>
    refine refused_of hasked rfl rfl ?_
    simp only [channelMask_some h0 hlt]
    obtain ⟨c, hc, hst⟩ := hbusy
    exact if_pos (List.any_eq_true.2 ⟨c, mem_named.2 hc, (startBusy_iff _).2 hst⟩)
  case started =>
    obtain ⟨w, hw⟩ := foldl_settledWith (ok := HasRoom) (fun b c h => ⟨_, enterDiscover_settles s.env b c h⟩)
      (allChans.filter fun c => mask.testBit c.val) b ((List.nodup_finRange 12).filter _)
      fun c hc => ⟨ho c, hroom c (mem_named.1 hc)⟩
    generalize hy : (allChans.filter fun c => mask.testBit c.val).foldl (Body.enterDiscover s.env) b = y at hw
    have hover : NoOverflow y := hw.noOverflow ho fun _ => rfl
    have hfin := finish_clean hover s.env
    refine ⟨s.withBody y, w, rfl, answers_of hasked rfl rfl ?_, settled_congr hw.settled fun c => mem_named, ?_, ?_, fun c hc => ?_,
      fun c hc => ?_⟩
    · simp only [channelMask_some h0 hlt]
      rw [← hy]
      refine (if_neg fun hany => ?_).trans (congrArg (State.accept _) (channelMaskBytes_named hlt))
      obtain ⟨c, hc, hst⟩ := List.any_eq_true.1 hany
      exact hfree c (mem_named.1 hc) ((startBusy_iff _).1 hst)
    · rw [withBody_body, hfin]
      exact congrArg (fun x : Body => { x with att := (y.refreshLevels s.env).att }) hw.rest
    · exact RepairDirectory.finish_attention_of_same s.env hover hw.att
    · rw [withBody_body, hfin]
      exact hw.others c fun h => hc (mem_named.1 h)
    · rw [withBody_body, hfin]
      have hmem := mem_named.2 hc
      exact ⟨hw.inv c hmem, hw.chan c hmem, hw.link c hmem⟩

/-! ### Channels stopped -/

/-- What a stop makes of a channel in TEST (R84). -/
def stopEffect : Effect where
  inv := id
  chan ch k rows := { ch.quiet with state := if k.state = .up then .idle else .down, repaired := rows }
  link k := Link.abandoned k .halt

/-- A stop of one channel. -/
theorem stopChannel_settles (b : Body) (c : ChanId) (hk : HasRoom b.link[c]) :
    ∃ w, SettledWith stopEffect (· = c) b w (b.stopChannel c) := by
  obtain ⟨x, hx⟩ : ∃ x, x = ((b.offer c .halt .none).modLink c Link.abandonReleases).modChan c
      fun ch => { ch.quiet with state := if b.link[c].state = .up then .idle else .down } := ⟨_, rfl⟩
  have hlink : ((b.offer c .halt .none).modLink c Link.abandonReleases).link[c] = Link.abandoned b.link[c] .halt := by
    rw [modLink_same, Body.offer, modLink_same]
    exact offer_abandon hk .halt
  have hstop : b.stopChannel c = x.settle c := by
    rw [hx]
    unfold Body.stopChannel
    dsimp only
    have hup : ((b.offer c .halt .none).modLink c Link.abandonReleases).linkUp c = decide (b.link[c].state = .up) := by
      unfold Body.linkUp
      rw [hlink]
      rfl
    simp only [hup, decide_eq_true_eq]
  have hset := settle_settled x c
  have hw : Settled (· = c) b (settledLike (· = c) (x.settle c) b) := by
    refine settled_transfer hset ?_ ?_ ?_ ?_
    · rw [hx]; rfl
    · rw [hx]; rfl
    · intro d _
      rw [hx]; rfl
    · rintro d rfl
      rw [hx, modChan_same]
      rfl
  rw [hstop]
  refine ⟨_, hw, ?rest, fun d hd => ⟨?_, ?_, ?_⟩, ?inv, ?chan, ?link⟩
  case rest =>
    obtain ⟨hrest, -⟩ := hset
    have hwatch : (x.settle c).watch = b.watch := by rw [hrest, hx]; rfl
    have hatt : (x.settle c).att = b.att := by rw [hrest, hx]; rfl
    unfold settledLike
    rw [← hwatch, ← hatt]
  · rw [(settle_others x hd).1, hx]; rfl
  · rw [(settle_others x hd).2, hx, modChan_other _ _ (Ne.symm hd)]
    rfl
  · rw [settle_link, hx, modChan_link, modLink_other _ _ (Ne.symm hd), offer_other _ _ _ (Ne.symm hd)]
  case inv =>
    rintro d rfl
    exact (settledLike_inv (cs := (· = d)) rfl).symm
  case chan =>
    rintro d rfl
    rw [settledLike_chan (cs := (· = d)) rfl, settle_chan, hx, modChan_same]
    rfl
  case link =>
    rintro d rfl
    rw [settle_link, hx, modChan_link]
    exact hlink

/-- The channels of a list that are in TEST, stopped: as R84 says, before the arbiter scans. -/
theorem foldl_stop {b : Body} {p : ChanId → Bool} (ho : NoOverflow b)
    (hroom : ∀ c, p c = true → b.link[c].sendq.length < 176) :
    Stopped (fun c => p c = true) b ((allChans.filter p).foldl Body.stopChannel b) ∧
      NoOverflow ((allChans.filter p).foldl Body.stopChannel b) := by
  have hmem : ∀ c : ChanId, c ∈ allChans.filter p ↔ p c = true := fun c => by simp [allChans, List.mem_filter]
  obtain ⟨w, hw⟩ := foldl_settledWith (ok := HasRoom) stopChannel_settles (allChans.filter p) b ((List.nodup_finRange 12).filter _)
    fun c hc => ⟨ho c, hroom c ((hmem c).1 hc)⟩
  have hsettled := settled_congr hw.settled hmem
  refine ⟨⟨w, hsettled, ?_, fun c hc => ?_, fun c hc => ⟨hw.chan c ((hmem c).2 hc), hw.link c ((hmem c).2 hc)⟩⟩, hw.noOverflow ho fun _ => rfl⟩
  · have hinv : ((allChans.filter p).foldl Body.stopChannel b).inv = w.inv := by
      refine Vector.ext fun i hi => ?_
      by_cases hc : (⟨i, hi⟩ : ChanId) ∈ allChans.filter p
      · exact hw.inv ⟨i, hi⟩ hc
      · obtain ⟨-, -, hsame, -⟩ := hw.settled
        exact ((hw.others ⟨i, hi⟩ hc).1).trans ((hsame ⟨i, hi⟩).1 (.inl hc)).symm
    rw [← hinv]
    exact hw.rest
  · exact (hw.others c fun h => hc ((hmem c).1 h)).2

/-- Settles O28: the channels of the mask that are in TEST, and the scan when one of them held units. -/
theorem stopTestStopsRunningChannels : Obligations.StopTestStopsRunningChannels := by
  unfold Obligations.StopTestStopsRunningChannels
  intro s p tag mask rq b stops hasked
  refine ⟨fun h => refused_of hasked rfl rfl (by simp only [channelMask_none h]), fun h0 hlt ho hroom => ?_⟩
  obtain ⟨q, hq⟩ : ∃ q : ChanId → Bool, q = fun c => mask.testBit c.val && b.chan[c].state == .test := ⟨_, rfl⟩
  have hstops : ∀ c, q c = true ↔ stops c := fun c => by simp [hq, stops, Names]
  have hfilter : (allChans.filter fun c => mask.testBit c.val).filter (fun c => b.chan[c].state == .test) = allChans.filter q := by
    rw [List.filter_filter, hq]
    simp only [Bool.and_comm]
  obtain ⟨m, hm, hnames, hbytes⟩ := exists_mask q
  obtain ⟨hstopped, hover⟩ := foldl_stop ho fun c hc => hroom c ((hstops c).1 hc)
  have hsame : (fun c => q c = true) = stops := funext fun c => propext (hstops c)
  rw [hsame] at hstopped
  have hanswer : ∀ {t}, s.body.stopChannels s.env (allChans.filter fun c => mask.testBit c.val) = t →
      Answers s p tag rq { s with body := t.finish s.env } .ok (be2 m) := by
    rintro t rfl
    refine answers_of hasked rfl rfl ?_
    simp only [channelMask_some h0 hlt]
    rw [← hbytes, ← hfilter]
    rfl
  refine ⟨_, m, hstopped, fun c => (hnames c).trans (hstops c), hm, fun hnone => hanswer ?_, fun ⟨c, hc, hheld⟩ => hanswer ?_⟩
  · unfold Body.stopChannels
    rw [hfilter]
    refine if_neg fun hany => ?_
    obtain ⟨c, hc, hheld⟩ := List.any_eq_true.1 hany
    rw [hnone c ((hstops c).1 (List.mem_filter.1 hc).2)] at hheld
    cases hheld
  · unfold Body.stopChannels
    rw [hfilter]
    exact if_pos (List.any_eq_true.2 ⟨c, List.mem_filter.2 ⟨List.mem_finRange c, (hstops c).2 hc⟩, hheld⟩)

/-- Settles O29: by the channel's state and its release outstanding. -/
theorem releaseIsSentFromReady : Obligations.ReleaseIsSentFromReady := by
  unfold Obligations.ReleaseIsSentFromReady
  intro s p tag n rq b hasked
  refine ⟨fun hn => refused_of hasked rfl rfl (by simp only [(chanOf_none n).2 hn]), fun c hc => ⟨fun h => ?busy, fun hst ho => ?sent⟩⟩
  case busy =>
    refine refused_of hasked rfl rfl ?_
    simp only [(chanOf_some n c).2 hc]
    refine if_neg ?_
    rintro ⟨hst, ho⟩
    rcases h with h | h
    · exact h hst
    · rw [ho] at h
      cases h
  case sent =>
    refine answers_of hasked rfl rfl ?_
    simp only [(chanOf_some n c).2 hc]
    exact if_pos ⟨hst, ho⟩

/-! ### The plan -/

theorem directionOf_iff (n : Nat) (d : Direction) : directionOf n = some d ↔ d.code = n := by
  rcases n with _ | _ | n <;> cases d <;> simp [directionOf, Direction.code]

theorem backgroundOf_iff (n : Nat) (g : Background) : backgroundOf n = some g ↔ g.code = n := by
  rcases n with _ | _ | _ | _ | n <;> cases g <;> simp [backgroundOf, Background.code]

theorem opOf_iff (n : Nat) (o : MarchOp) : opOf n = some o ↔ o.code = n := by
  rcases n with _ | _ | _ | _ | n <;> cases o <;> simp [opOf, MarchOp.code]

theorem spreadOf_iff (n : Nat) (sp : Spread) : spreadOf n = some sp ↔ sp.code = n := by
  rcases n with _ | _ | n <;> cases sp <;> simp [spreadOf, Spread.code]

theorem boolOf_iff (n : Nat) (m : Bool) : boolOf n = some m ↔ (if m then 1 else 0) = n := by
  rcases n with _ | _ | n <;> cases m <;> simp [boolOf]

theorem direction_le (d : Direction) : d.code ≤ 1 := by cases d <;> decide
theorem background_le (g : Background) : g.code ≤ 3 := by cases g <;> decide
theorem op_le (o : MarchOp) : o.code ≤ 3 := by cases o <;> decide
theorem spread_le (sp : Spread) : sp.code ≤ 1 := by cases sp <;> decide

theorem exists_direction {n : Nat} (h : n ≤ 1) : ∃ d : Direction, d.code = n := by
  interval_cases n
  exacts [⟨.up, rfl⟩, ⟨.down, rfl⟩]

theorem exists_background {n : Nat} (h : n ≤ 3) : ∃ g : Background, g.code = n := by
  interval_cases n
  exacts [⟨.solid, rfl⟩, ⟨.checker, rfl⟩, ⟨.rowstripe, rfl⟩, ⟨.colstripe, rfl⟩]

theorem exists_op {n : Nat} (h : n ≤ 3) : ∃ o : MarchOp, o.code = n := by
  interval_cases n
  exacts [⟨.w0, rfl⟩, ⟨.w1, rfl⟩, ⟨.r0, rfl⟩, ⟨.r1, rfl⟩]

theorem exists_spread {n : Nat} (h : n ≤ 1) : ∃ sp : Spread, sp.code = n := by
  interval_cases n
  exacts [⟨.parallel, rfl⟩, ⟨.serial, rfl⟩]

theorem exists_bool {n : Nat} (h : n ≤ 1) : ∃ m : Bool, (if m then 1 else 0) = n := by
  interval_cases n
  exacts [⟨false, rfl⟩, ⟨true, rfl⟩]

/-- A list of codes names a list of operations when each code does. -/
theorem mapM_opOf (l : List Nat) (ops : List MarchOp) : l.mapM opOf = some ops ↔ ops.map MarchOp.code = l := by
  induction l generalizing ops with
  | nil => simp
  | cons x l ih =>
    simp only [List.mapM_cons, Option.bind_eq_bind, Option.bind_eq_some_iff, opOf_iff, ih, Option.pure_def, Option.some.injEq,
      List.map_eq_cons_iff]
    constructor
    · rintro ⟨o, ho, rest, hrest, rfl⟩
      exact ⟨o, rest, rfl, ho, hrest⟩
    · rintro ⟨o, rest, rfl, ho, hrest⟩
      exact ⟨o, ho, rest, hrest, rfl⟩

theorem exists_ops {l : List Nat} (h : ∀ x ∈ l, x ≤ 3) : ∃ ops : List MarchOp, ops.map MarchOp.code = l := by
  induction l with
  | nil => exact ⟨[], rfl⟩
  | cons x l ih =>
    obtain ⟨o, ho⟩ := exists_op (h x List.mem_cons_self)
    obtain ⟨ops, hops⟩ := ih fun y hy => h y (List.mem_cons_of_mem _ hy)
    exact ⟨o :: ops, by rw [List.map_cons, ho, hops]⟩

/-- The places that are used hold codes of operations. -/
theorem places_iff (places : List Nat) (count : Nat) :
    (∀ k x, k < count → places[k]? = some x → x ≤ 3) ↔ ∀ x ∈ places.take count, x ≤ 3 := by
  constructor
  · intro h x hx
    obtain ⟨k, hk⟩ := List.mem_iff_getElem?.1 hx
    rw [List.getElem?_take] at hk
    split at hk
    · rename_i hlt
      exact h k x hlt hk
    · cases hk
  · intro h k x hk hx
    exact h x (List.mem_iff_getElem?.2 ⟨k, by rw [List.getElem?_take, if_pos hk, hx]⟩)

/-- The fields of a step operand lie in their ranges (R95). -/
def FieldsOk (o : StepOp) : Prop :=
  o.direction ≤ 1 ∧ o.background ≤ 3 ∧ o.mandatory ≤ 1 ∧ o.spread ≤ 1 ∧ 1 ≤ o.count ∧ o.count ≤ 6 ∧
    (∀ k x, k < o.count → o.places[k]? = some x → x ≤ 3) ∧ o.mask < 4096

/-- The step that an operand names, field by field. -/
theorem step_iff (o : StepOp) (q : PlanStep) : o.step = some q ↔
    q.direction.code = o.direction ∧ q.background.code = o.background ∧ (if q.mandatory then 1 else 0) = o.mandatory ∧
    q.spread.code = o.spread ∧ (1 ≤ o.count ∧ o.count ≤ 6) ∧ q.ops.map MarchOp.code = o.places.take o.count ∧ o.mask < 4096 ∧
    q.pause = clampPause o.pause ∧ q.mask = BitVec.ofNat 12 o.mask := by
  have hops : ∀ ops, o.opList = some ops ↔ (1 ≤ o.count ∧ o.count ≤ 6) ∧ ops.map MarchOp.code = o.places.take o.count := by
    intro ops
    unfold StepOp.opList
    split
    · rename_i h
      simp only [mapM_opOf, h, true_and, and_self]
    · rename_i h
      simp only [reduceCtorEq, h, false_and]
  unfold StepOp.step
  simp only [Option.bind_eq_bind, Option.bind_eq_some_iff, directionOf_iff, backgroundOf_iff, boolOf_iff, spreadOf_iff, hops,
    Option.ite_none_right_eq_some, Option.some.injEq]
  constructor
  · rintro ⟨d, hd, g, hg, m, hm, sp, hsp, ops, ⟨hcount, hops⟩, hmask, rfl⟩
    exact ⟨hd, hg, hm, hsp, hcount, hops, hmask, rfl, rfl⟩
  · rintro ⟨hd, hg, hm, hsp, hcount, hops, hmask, hpause, hbits⟩
    refine ⟨_, hd, _, hg, _, hm, _, hsp, _, ⟨hcount, hops⟩, hmask, ?_⟩
    rw [← hpause, ← hbits]

theorem step_none {o : StepOp} (h : ¬FieldsOk o) : o.step = none := by
  cases hs : o.step with
  | none => rfl
  | some q =>
    obtain ⟨hd, hg, hm, hsp, hcount, hops, hmask, -⟩ := (step_iff o q).1 hs
    refine absurd ⟨hd ▸ direction_le _, hg ▸ background_le _, ?_, hsp ▸ spread_le _, hcount.1, hcount.2, ?_, hmask⟩ h
    · rw [← hm]
      split <;> omega
    · rw [places_iff, ← hops]
      intro x hx
      obtain ⟨y, -, rfl⟩ := List.mem_map.1 hx
      exact op_le y

theorem step_some {o : StepOp} (h : FieldsOk o) : ∃ q, o.step = some q := by
  obtain ⟨hd, hg, hm, hsp, h1, h6, hplaces, hmask⟩ := h
  obtain ⟨d, hd⟩ := exists_direction hd
  obtain ⟨g, hg⟩ := exists_background hg
  obtain ⟨m, hm⟩ := exists_bool hm
  obtain ⟨sp, hsp⟩ := exists_spread hsp
  obtain ⟨ops, hops⟩ := exists_ops ((places_iff _ _).1 hplaces)
  exact ⟨⟨d, g, ops, clampPause o.pause, m, sp, BitVec.ofNat 12 o.mask⟩,
    (step_iff o _).2 ⟨hd, hg, hm, hsp, ⟨h1, h6⟩, hops, hmask, rfl, rfl⟩⟩

theorem planBytes_eq (x : Option PlanStep) : planBytes x = match x with
    | none => 1#8 :: zeros 14
    | some q => [0#8] ++ be1 q.direction.code ++ be1 q.background.code ++ yesNo q.mandatory ++ be1 q.spread.code ++
      be1 q.ops.length ++ ((q.ops.map fun y => BitVec.ofNat 8 y.code) ++ zeros 6).take 6 ++ be1 q.pause ++
      be2 q.mask.toNat := by cases x <;> rfl

theorem clampPause_eq (k : Nat) :
    clampPause k = if k = 0 then 0 else if k < 9 then 9 else if k ≤ 16 then k else 16 := by
  unfold clampPause
  split_ifs <;> omega

/-- Settles O30: the operand's fields, the lock, and the slot replaced. -/
theorem writePlanReplacesSlot : Obligations.WritePlanReplacesSlot := by
  unfold Obligations.WritePlanReplacesSlot
  intro s p tag n mark o rq hasked fieldsOk lock
  refine ⟨fun h => ?refused, fun i hi hmark => ⟨fun hlock => ?busy, fun hfree => ?written⟩⟩
  case refused =>
    refine refused_of hasked rfl rfl ?_
    by_cases hn : 15 < n
    · simp only [(slotOf_none n).2 hn]
    · have hnone : planOperand mark o = none := by
        unfold planOperand
        rcases h.resolve_left hn with hm | ⟨hm, hf⟩
        · rw [if_neg (by omega), if_neg (by omega)]
        · rw [if_neg (by omega), if_pos hm, step_none hf]
          rfl
      simp only [hnone]
      cases slotOf n <;> rfl
  all_goals
    obtain ⟨x, hx, hempty, hstep⟩ : ∃ x, planOperand mark o = some x ∧ (mark = 1 → x = none) ∧
        (mark = 0 → ∃ q, x = some q ∧ o.step = some q) := by
      unfold planOperand
      rcases hmark with hm | ⟨hm, hf⟩
      · exact ⟨none, if_pos hm, fun _ => rfl, fun h => by omega⟩
      · obtain ⟨q, hq⟩ := step_some hf
        exact ⟨some q, by rw [if_neg (by omega), if_pos hm, hq]; rfl, fun h => by omega, fun _ => ⟨q, rfl, hq⟩⟩
  case busy =>
    refine refused_of hasked rfl rfl ?_
    simp only [(slotOf_some n i).2 hi, hx]
    exact if_pos ((Keeping.anyTest_iff _).2 hlock)
  case written =>
    refine ⟨x, answers_of hasked rfl rfl ?_, hempty, fun hm => ?_⟩
    · simp only [(slotOf_some n i).2 hi, hx]
      refine (if_neg fun h => hfree ((Keeping.anyTest_iff _).1 h)).trans ?_
      subst hi
      rw [planBytes_eq]
      rfl
    · obtain ⟨q, rfl, hq⟩ := hstep hm
      obtain ⟨hd, hg, hmand, hsp, -, hops, hmask, hpause, hbits⟩ := (step_iff o q).1 hq
      refine ⟨q, rfl, hd, hg, hmand, hsp, hops, ?_, hpause.trans (clampPause_eq _)⟩
      rw [hbits, BitVec.toNat_ofNat]
      exact Nat.mod_eq_of_lt hmask

/-! ### Configuration -/

theorem put_values (i : Items) {n : Nat} (h : n < 14) (v : Nat) : (i.put n v).values = i.values.set n v := by
  interval_cases n <;> rfl

/-- Settles O31: the item's range, the lock, and the value taken. -/
theorem setConfigClampsAndWrites : Obligations.SetConfigClampsAndWrites := by
  unfold Obligations.SetConfigClampsAndWrites
  intro s p tag n v rq hasked ranges lock
  refine ⟨fun hn => ?unknown, fun h1 hlock => ?busy, fun lo hi hrange hfree => ?written⟩
  case unknown =>
    refine refused_of hasked rfl rfl ?_
    have hnone : itemRanges[n]? = none := List.getElem?_eq_none hn
    simp only [hnone]
  case busy =>
    refine refused_of hasked rfl rfl ?_
    subst h1
    exact if_pos ⟨rfl, (Keeping.anyTest_iff _).2 hlock⟩
  case written =>
    have hle : lo ≤ hi := Keeping.itemRanges_le hrange
    have hn : n < 14 := by
      by_contra hc
      have hnone : ranges[n]? = none := List.getElem?_eq_none (Nat.le_of_not_lt hc)
      rw [hnone] at hrange
      cases hrange
    have hitem : itemRanges[n]? = some (lo, hi) := hrange
    refine ⟨s.writeItem n (clamp (lo, hi) v), clamp (lo, hi) v, fun h => ?_, fun h1 h2 => ?_, fun h => ?_,
      answers_of hasked rfl rfl ?_, rfl, put_values s.items hn _⟩
    · show max lo (min v hi) = lo
      omega
    · show max lo (min v hi) = v
      omega
    · show max lo (min v hi) = hi
      omega
    · simp only [hitem]
      refine (if_neg fun h => hfree ⟨h.1, (Keeping.anyTest_iff _).1 h.2⟩).trans ?_
      have hyes : yesNo (clamp (lo, hi) v != v) = [if clamp (lo, hi) v = v then 0#8 else 1#8] := by
        by_cases h : clamp (lo, hi) v = v <;> simp [h, yesNo, be1]
      rw [hyes]
      rfl

/-! ### Attention -/

theorem isLevel_iff (n : Fin 10) : isLevel n = true ↔ n.val = 5 ∨ n.val = 6 := by
  simp [isLevel, Condition.num, Fin.ext_iff]

/-- Records changed one after the other, each once: those of the list are changed, and nothing else. -/
theorem foldl_att (f : Fin 10 → CondRec → CondRec) : ∀ (ns : List (Fin 10)) (b : Body), ns.Nodup →
    let b' := ns.foldl (fun (x : Body) (n : Fin 10) => { x with att := x.att.set n (f n x.att[n]) }) b
    b' = { b with att := b'.att } ∧ ∀ m : Fin 10, b'.att[m] = if m ∈ ns then f m b.att[m] else b.att[m]
  | [], b, _ => ⟨rfl, fun m => by simp⟩
  | n :: ns, b, hn => by
    obtain ⟨hnot, hns⟩ := List.nodup_cons.1 hn
    obtain ⟨hrest, hatt⟩ := foldl_att f ns { b with att := b.att.set n (f n b.att[n]) } hns
    refine ⟨hrest, fun m => ?_⟩
    rw [List.foldl_cons, hatt]
    by_cases hm : n = m
    · subst hm
      simp [hnot]
    · have hval : n.val ≠ m.val := fun h => hm (Fin.ext h)
      simp [Vector.getElem_set_ne, hval, Ne.symm hm]

theorem clearConds_eq (b : Body) {ns : List (Fin 10)} (hn : ns.Nodup) :
    b.clearConds ns = { b with att := (b.clearConds ns).att } ∧
    ∀ m : Fin 10, (b.clearConds ns).att[m] = if m ∈ ns ∧ isLevel m = false then b.att[m].clear else b.att[m] := by
  have hfold : b.clearConds ns = ns.foldl (fun (x : Body) (n : Fin 10) =>
      { x with att := x.att.set n ((fun m r => if isLevel m then r else CondRec.clear r) n x.att[n]) }) b := by
    unfold Body.clearConds
    congr 1
    funext x n
    cases h : isLevel n <;> simp [h]
  obtain ⟨hrest, hatt⟩ := foldl_att (fun m r => if isLevel m then r else CondRec.clear r) ns b hn
  rw [hfold]
  refine ⟨hrest, fun m => (hatt m).trans ?_⟩
  by_cases hm : m ∈ ns <;> cases isLevel m <;> simp [hm]

theorem routeConds_eq (b : Body) {ns : List (Fin 10)} (hn : ns.Nodup) (en : Bool) (l : Line) :
    b.routeConds ns en l = { b with att := (b.routeConds ns en l).att } ∧
    ∀ m : Fin 10, (b.routeConds ns en l).att[m] =
      if m ∈ ns then { b.att[m] with enable := en, line := l } else b.att[m] :=
  foldl_att (fun _ r => { r with enable := en, line := l }) ns b hn

theorem mem_conds {mask : Nat} {n : Fin 10} :
    n ∈ allConds.filter (fun c => mask.testBit c.val) ↔ mask.testBit n.val = true := by
  simp [allConds, List.mem_filter]

theorem nodup_conds (mask : Nat) : (allConds.filter fun c => mask.testBit c.val).Nodup := (List.nodup_finRange 10).filter _

theorem noOverflow_of_link {b b' : Body} (h : b'.link = b.link) (ho : NoOverflow b) : NoOverflow b' := fun l => by
  rw [h]
  exact ho l

theorem pendingMask_eq (b : Body) : b.pendingMask =
    be2 (((List.finRange 10).map fun n => if b.att[n].pending then 2 ^ n.val else 0).sum) := by
  rw [Body.pendingMask, Inspect.maskOf_eq]

theorem line_iff (s : State) (l : Line) : s.line l = true ↔ s.inReset = false ∧
    ∃ n : Fin 10, s.body.att[n].pending = true ∧ s.body.att[n].enable = true ∧ s.body.att[n].line = l := by
  rw [Inspect.line_eq]
  simp [and_assoc]

theorem lineOf_iff (n : Nat) (l : Line) : lineOf n = some l ↔ l.code = n := by
  rcases n with _ | _ | n <;> cases l <;> simp [lineOf, Line.code]

/-- Settles O32: the conditions of the mask cleared or routed, and the end of the change; the lines and the occurrences. -/
theorem attentionIsRaisedClearedAndRouted : Obligations.AttentionIsRaisedClearedAndRouted := by
  unfold Obligations.AttentionIsRaisedClearedAndRouted
  refine ⟨?clear, ?set, line_iff, fun b k v => rfl⟩
  case clear =>
    intro s p tag mask rq hasked
    refine ⟨fun h => refused_of hasked rfl rfl (by simp only [conditionMask_none h]), fun h0 hlt ho => ?_⟩
    obtain ⟨hrest, hatt⟩ := clearConds_eq s.body (nodup_conds mask)
    generalize hy : s.body.clearConds (allConds.filter fun c => mask.testBit c.val) = y at hrest hatt
    have hover : NoOverflow y := noOverflow_of_link (by rw [hrest]) ho
    obtain ⟨hfin, hlevels, hbut⟩ := finish_attention hover s.env
    refine ⟨s.withBody y, rfl, answers_of hasked rfl rfl ?_, ?_, hlevels, fun n => ⟨fun hn => ?_, fun h5 h6 => ?_⟩⟩
    · simp only [conditionMask_some h0 hlt, hy, pendingMask_eq]
      rfl
    · exact hfin.trans (congrArg (fun x : Body => { x with att := (y.finish s.env).att }) hrest)
    · have hlevel := (isLevel_iff n).2 hn
      refine ((hbut n).1 hlevel).trans ?_
      rw [hatt n, if_neg (by simp [hlevel])]
      rfl
    · have hedge : isLevel n = false := by
        rw [← Bool.not_eq_true, isLevel_iff]
        exact fun h => h.elim h5 h6
      refine ((hbut n).2 hedge List.not_mem_nil).trans ((hatt n).trans ?_)
      simp only [mem_conds, hedge, and_true]
      rfl
  case set =>
    intro s p tag mask en ln rq hasked
    refine ⟨fun h => ?refused, fun h0 hlt hen hln ho => ?route⟩
    case refused =>
      refine refused_of hasked rfl rfl ?_
      by_cases hmask : mask = 0 ∨ 1024 ≤ mask
      · simp only [conditionMask_none hmask]
      · by_cases hen : 1 < en
        · have hnone : boolOf en = none := by
            cases hb : boolOf en with
            | none => rfl
            | some m =>
              have := (boolOf_iff _ _).1 hb
              split at this <;> omega
          simp only [hnone]
          cases conditionMask mask <;> rfl
        · have hnone : lineOf ln = none := by
            cases hl : lineOf ln with
            | none => rfl
            | some l =>
              have := (lineOf_iff _ _).1 hl
              cases l <;> simp only [Line.code] at this <;> omega
          simp only [hnone]
          cases conditionMask mask <;> cases boolOf en <;> rfl
    case route =>
      have hbool : boolOf en = some (en == 1) := (boolOf_iff _ _).2 (by interval_cases en <;> rfl)
      have hline : lineOf ln = some (if ln = 0 then .hi else .lo) := (lineOf_iff _ _).2 (by interval_cases ln <;> rfl)
      obtain ⟨hrest, hatt⟩ := routeConds_eq s.body (nodup_conds mask) (en == 1) (if ln = 0 then .hi else .lo)
      generalize hy : s.body.routeConds (allConds.filter fun c => mask.testBit c.val) (en == 1) (if ln = 0 then .hi else .lo) = y
        at hrest hatt
      have hover : NoOverflow y := noOverflow_of_link (by rw [hrest]) ho
      obtain ⟨hfin, hlevels, hbut⟩ := finish_attention hover s.env
      have hfields : ∀ n : Fin 10, y.att[n] = { s.body.att[n] with
          enable := if mask.testBit n.val then en == 1 else s.body.att[n].enable
          line := if mask.testBit n.val then (if ln = 0 then .hi else .lo) else s.body.att[n].line } := fun n => by
        rw [hatt n]
        simp only [mem_conds]
        cases mask.testBit n.val <;> rfl
      have hkept : ∀ n : Fin 10, (y.finish s.env).att[n] = { y.att[n] with pending := (y.finish s.env).att[n].pending } := fun n => by
        cases hl : isLevel n with
        | true => exact (hbut n).1 hl
        | false => rw [(hbut n).2 hl List.not_mem_nil]
      refine ⟨s.withBody y, rfl, answers_of hasked rfl rfl ?_, ?_, hlevels, fun n => ⟨fun h5 h6 => ?_, ?_⟩⟩
      · simp only [conditionMask_some h0 hlt, hbool, hline, hy]
        rfl
      · exact hfin.trans (congrArg (fun x : Body => { x with att := (y.finish s.env).att }) hrest)
      · have hedge : isLevel n = false := by
          rw [← Bool.not_eq_true, isLevel_iff]
          exact fun h => h.elim h5 h6
        have hpending : y.att[n].pending = s.body.att[n].pending := by rw [hfields n]
        exact (congrArg CondRec.pending ((hbut n).2 hedge List.not_mem_nil)).trans hpending
      · refine (hkept n).trans ?_
        rw [hfields n]
        rfl

/-! ### The grant mask and the control reset -/

/-- Settles O33: by the two values. -/
theorem grantSetsTheMask : Obligations.GrantSetsTheMask := by
  unfold Obligations.GrantSetsTheMask
  intro s p tag e c hasked
  have hnone : ∀ {n}, 1 < n → boolOf n = none := fun {n} hn => by
    cases hb : boolOf n with
    | none => rfl
    | some m =>
      have := (boolOf_iff _ _).1 hb
      split at this <;> omega
  refine ⟨fun h => refused_of hasked rfl rfl ?_, fun he hc => answers_of hasked rfl rfl ?_⟩
  · rcases h with h | h
    · simp only [hnone h]
    · simp only [hnone h]
      cases boolOf e <;> rfl
  · interval_cases e <;> interval_cases c <;> rfl

/-- With no channel waiting the arbiter's scan changes nothing. -/
theorem scan_idle {env : Env} {b : Body} (h : ∀ c : ChanId, b.chan[c].admission = .none) : b.scan env = b := by
  have hvisit : ∀ c, b.visit env c = b := fun c => by
    unfold Body.visit
    rw [h c]
  unfold Body.scan
  induction allChans with
  | nil => rfl
  | cons c cs ih => rw [List.foldl_cons, hvisit c, ih]

theorem controlReset_eq (r : Port) : r.controlReset =
    { r with
      req := none, reply := none, readPos := 0, hold := none
      lastLoss := if r.req.isSome || r.reply.isSome then .reset else r.lastLoss
      reading := if r.reading = some .reply then some .ones else r.reading } := by
  obtain ⟨_, _, _, _, _, _, _, reading, _⟩ := r
  rcases reading with _ | _ | _ | _ <;> rfl

/-- Settles O34: every channel in TEST stopped, and the values of power-on. -/
theorem controlResetRestoresDefaults : Obligations.ControlResetRestoresDefaults := by
  unfold Obligations.ControlResetRestoresDefaults
  intro s p tag hasked b stops
  have hp : p = .a := by
    cases p with
    | a => rfl
    | b => exact absurd hasked.2 (by simp [State.allows, Request.requestClass])
  refine ⟨hp, fun ho hroom => ?_⟩
  obtain ⟨q, hq⟩ : ∃ q : ChanId → Bool, q = fun c => b.chan[c].state == .test := ⟨_, rfl⟩
  have hstops : ∀ c, q c = true ↔ stops c := fun c => by simp [hq, stops]
  obtain ⟨m, hm, hnames, hbytes⟩ := exists_mask q
  obtain ⟨hstopped, hover⟩ := foldl_stop ho fun c hc => hroom c ((hstops c).1 hc)
  have hsame : (fun c => q c = true) = stops := funext fun c => propext (hstops c)
  rw [hsame] at hstopped
  have hanswer : Answers s p tag .controlReset { s.controlState with
      portA := { s.controlState.portA with lastLoss := .none }, portB := s.controlState.portB.controlReset } .ok (be2 m) := by
    refine answers_of hasked rfl rfl ?_
    have hmask : channelMaskBytes (s.body.inTest allChans) = be2 m := by
      rw [← hbytes, hq]
      rfl
    simp only [hmask]
    rfl
  refine ⟨_, m, _, hstopped, fun c => (hnames c).trans (hstops c), hm, hanswer, rfl, fun hadm => ?_, controlReset_eq s.portB⟩
  have hnone : ∀ c : ChanId, ((allChans.filter q).foldl Body.stopChannel b).chan[c].admission = .none := fun c => by
    obtain ⟨w, -, -, hothers, hstop⟩ := hstopped
    by_cases hc : stops c
    · rw [(hstop c hc).1]
    · rw [(hothers c hc).1]
      by_contra hne
      exact hc (hadm c hne)
  have hchans : s.body.stopChannels s.env allChans = (allChans.filter q).foldl Body.stopChannel b := by
    unfold Body.stopChannels
    rw [hq] at hnone ⊢
    dsimp only
    split
    · exact scan_idle hnone
    · rfl
  show Body.refreshLevels _ { (s.body.stopChannels s.env allChans).closeOverflows s.env 12 with att := Attention.initial } = _
  rw [hchans, closeOverflows_clean hover]
  rfl

end Sys2Proof.Proofs.Control
end

section
/-! SUPPORT. Failure of a channel, replacement targets, the end of a change, the arbiter, and the phases of a run. -/

namespace Sys2Proof.Proofs.Runs

open Sys2Proof Sys2Proof.Machine Sys2Proof.Laws Sys2Proof.Proofs.Inspect

/-! ### Failure -/

theorem liftFence_some {b : Body} {c : ChanId} {k : Fin 8} {f : Fence} (hk : k.val = c.val) (hf : b.fence[k].out = some f) :
    b.liftFence c = { b.offer c (.lift f.serial) (.lift f.serial) with
      fence := b.fence.set k { b.fence[k] with out := none } } := by
  unfold Body.liftFence
  rw [fenceOf_buffer b hk, hf]
  exact modFence_buffer _ hk _

theorem liftFence_none {b : Body} {c : ChanId} (h : ∀ k : Fin 8, k.val = c.val → b.fence[k].out = none) : b.liftFence c = b := by
  have : (b.fenceOf c).out = none := by
    by_cases hc : c.val < 8
    · rw [fenceOf_buffer b (k := ⟨c.val, hc⟩) rfl]
      exact h _ rfl
    · rw [fenceOf_table b (Nat.le_of_not_lt hc)]
      rfl
  unfold Body.liftFence
  rw [this]

/-- HALT, sent to a channel that fails in TEST, leaves its fence unit. -/
theorem halted_fence (b : Body) (c : ChanId) : (if b.chan[c].state = .test then b.offer c .halt .none else b).fence = b.fence := by
  split <;> rfl

theorem halted_chan (b : Body) (c : ChanId) : (if b.chan[c].state = .test then b.offer c .halt .none else b).chan = b.chan := by
  split <;> rfl

theorem liftFence_chan (b : Body) (c : ChanId) : (b.liftFence c).chan = b.chan := by
  unfold Body.liftFence
  split
  · rfl
  · rw [modFence_chan, offer_chan]

/-- Settles O53: the blocks before the channel is settled, by the fence outstanding. -/
theorem failureSettlesTheChannel : Obligations.FailureSettlesTheChannel := by
  unfold Obligations.FailureSettlesTheChannel
  refine ⟨settle_settled, fun env b c cause => ?_⟩
  intro ch
  refine ⟨fun h => if_pos h, fun h b2 => ?_⟩
  intro b1 lifted hb2
  have hlift : b1.liftFence c = b2 := by
    have hfence : b1.fence = b.fence := halted_fence b c
    rcases hb2 with ⟨k, hk, f, hf, rfl⟩ | ⟨hnone, rfl⟩
    · rw [liftFence_some hk (by rw [hfence]; exact hf), hfence]
    · exact liftFence_none fun k hk => by rw [hfence]; exact hnone k hk
  have hchan : b2.chan = b.chan := by rw [← hlift, liftFence_chan, halted_chan]
  refine ⟨_, settle_settled _ c, ?_⟩
  have key : (b1.liftFence c).modChan c (fun x => { x.quiet with state := .failed, cause := some cause }) =
      { b2 with chan := b2.chan.set c { ch with
        state := .failed, cause := some cause, phase := none, planPos := none, step := none, admission := .none
        releaseOut := false, installPos := none, walkPos := none, awaited := none, linkWait := none, geomWait := none
        stepTimer := none } } := by
    rw [hlift]
    simp only [Body.modChan, hchan]
    rfl
  exact (if_neg h).trans (congrArg (fun x : Body =>
    if ch.admission.isHeld then ((x.settle c).raise .channelFailed (.failed c cause)).scan env
      else (x.settle c).raise .channelFailed (.failed c cause)) key)

/-! ### Targets -/

/-- The repair count stops at 65535 (R79). -/
theorem countRepair_eq (b : Body) (c : ChanId) : b.countRepair c = { b with chan := b.chan.set c { b.chan[c] with
    repairs := if b.chan[c].repairs < 65535 then b.chan[c].repairs + 1 else 65535 } } := by
  have : min (b.chan[c].repairs + 1) 65535 = if b.chan[c].repairs < 65535 then b.chan[c].repairs + 1 else 65535 := by split <;> omega
  simp only [Body.countRepair, Body.modChan, this]

/-- The choice of R36, by the first of its three places that has anything. -/
theorem choose_order (env : Env) (b : Body) (c : ChanId) (bank : Nat) {v : Inventory} (hv : b.inv[c] = some v) :
    let g := bank / v.geo.banksPerGroup
    let spare := fun i => b.chan[c].state = .test ∧ env.items.deviceSparesUse = 1 ∧ v.spare g i = some .free
    let slot := fun k => v.slots[k]? = some .free
    (∀ i, Least spare i → b.choose env c bank = some (.target (.device g i))) ∧
    ((∀ i, ¬spare i) → (∀ k, Least slot k → b.choose env c bank = some (.target (.pool k))) ∧
      ((∀ k, ¬slot k) → b.choose env c bank = if c.val < 8 ∧ v.exclusions < 32 then some .exclude else none)) := by
  intro g spare slot
  refine ⟨?_, fun hs => ⟨fun k hk => ?_, fun hk => ?_⟩⟩
  · rintro i ⟨⟨ht, hd, hf⟩, hmin⟩
    exact choose_device hv ht hd ⟨hf, fun j hj hx => hmin j hj ⟨ht, hd, hx⟩⟩
  · have : v.freeSlot = some k := (findIdx_least _ _ _).2 hk
    rw [choose_rest hv hs, this]
    rfl
  · have : v.freeSlot = none := (findIdx_none _ _).2 hk
    rw [choose_rest hv hs, this]
    rfl

/-- What a FAIL in MAIN writes for a row that has no entry: the entry, the replacement taken, the repair and the tally counted. -/
theorem newEntry_eq {b : Body} (e : EntryNo) (k : Key) (x : Replacement) {v : Inventory} (hv : b.inv[k.chan] = some v) :
    ((b.createRow e k x .test).countRepair k.chan).countTally k.chan k.bank = Body.countRepair { b with
      dir := b.dir.set e ⟨b.dir[e].gen + 1#8, some ⟨.pending, k, some x, none, .test, v.tag, 0⟩⟩
      inv := b.inv.set k.chan (some { v.take x with tallies := v.tallies.modify k.bank (· + 1) }) } k.chan := by
  have htally : (v.take x).tallies = v.tallies := by rcases x with (_ | _) | _ <;> rfl
  have hv' : b.inv[k.chan.val] = some v := hv
  simp [Body.createRow, Body.createEntry, Body.changeEntry, Body.deviceTag, Body.countTally, Body.modInv, Body.countRepair,
    Body.modChan, hv', htally]

theorem tally_eq {b : Body} {c : ChanId} {v : Inventory} (hv : b.inv[c] = some v) (bank : Nat) :
    b.tally c bank = (v.tallies[bank]?).getD 0 := by
  unfold Body.tally
  rw [hv, Option.map_some, Option.getD_some, List.getD_eq_getElem?_getD]

/-- A change of one entry leaves a test of the others. -/
theorem filter_others_changeEntry (b : Body) (d : EntryNo) (l : Option Live) (p : Live → Bool) (es : List EntryNo) :
    (es.filter fun i => i != d && (b.changeEntry d l).dir[i].live.any p) = es.filter fun i => i != d && b.dir[i].live.any p := by
  refine List.filter_congr fun i _ => ?_
  by_cases hi : i = d
  · simp [hi]
  · rw [changeEntry_other b _ (Ne.symm hi)]

/-- R40, with a FREE entry for the whole bank: the bank's other entries are freed. -/
theorem excludeBank_eq {env : Env} {b : Body} {c : ChanId} {bank : Nat} {d : EntryNo} {v : Inventory} (hv : b.inv[c] = some v)
    (hd : LowestFree b d) : b.excludeBank env c bank =
      ((List.finRange 1024).filter fun i => i != d && b.dir[i].live.any fun q =>
        q.key.chan == c && q.key.bank == bank).foldl Body.freeEntry
          (Body.countRepair { b with
            dir := b.dir.set d ⟨b.dir[d].gen + 1#8, some ⟨.pending, ⟨c, bank, none⟩, some .exclude, none, .test, v.tag, 0⟩⟩ } c) := by
  have htag : b.deviceTag c = v.tag := by
    unfold Body.deviceTag
    rw [hv]
    rfl
  unfold Body.excludeBank
  rw [(lowestFree_iff b d).2 hd]
  simp only [entriesWhere_eq, List.filter_filter, htag]
  exact congrArg (List.foldl Body.freeEntry _) (filter_others_changeEntry b d _ _ _)

/-- R39, R40, by the channel's class. -/
theorem bankLimit_eq {env : Env} {b : Body} {c : ChanId} {bank n : Nat} (h : b.tally c bank = n) :
    (n ≤ env.items.bankFailLimit → b.bankLimit env c bank = b) ∧
    (env.items.bankFailLimit < n → 8 ≤ c.val → b.bankLimit env c bank = b.failChannel env c .bankLimit) ∧
    (env.items.bankFailLimit < n → c.val < 8 → b.bankLimit env c bank = b.excludeBank env c bank) := by
  unfold Body.bankLimit
  rw [h, isBuffer_eq]
  refine ⟨fun hn => if_pos hn, fun hn hc => ?_, fun hn hc => ?_⟩
  · rw [if_neg (Nat.not_le.2 hn), if_neg (by simpa using hc)]
  · rw [if_neg (Nat.not_le.2 hn), if_pos (by simpa using hc)]

/-- Settles O54: the choice by what is free, the marks, and a new entry by its bank's tally. -/
theorem targetsAreChosenMarkedAndReturned : Obligations.TargetsAreChosenMarkedAndReturned := by
  unfold Obligations.TargetsAreChosenMarkedAndReturned
  refine ⟨fun env b c bank => ⟨choose_none, fun v hv => choose_order env b c bank hv⟩, ?marks, ?spare, ?device, ?retarget,
    countRepair_eq, ?new⟩
  case marks =>
    refine fun v k r => ⟨rfl, rfl, rfl, fun h => ?_, fun h hr => ?_, fun h hr => ?_, fun h => ?_⟩
    · simp only [Inventory.giveBack, h]
      rfl
    · simp only [Inventory.giveBack, h]
      exact if_pos (Option.isSome_iff_ne_none.2 hr)
    · simp only [Inventory.giveBack, h]
      exact if_neg (by rw [hr]; exact Bool.false_ne_true)
    · simp only [Inventory.giveBack, h]
  case spare =>
    intro v g i
    unfold Inventory.spare
    rw [List.getD_eq_getElem?_getD]
    cases v.spares[g]? <;> rfl
  case device =>
    intro v g i r
    refine ⟨⟨rfl, spare_setSpare v g i .used⟩, ⟨rfl, spare_setSpare v g i .spent⟩, fun h => ?_⟩
    simp only [Inventory.giveBack, h]
    exact ⟨rfl, spare_setSpare v g i _⟩
  case retarget =>
    intro env b e r t round hl ht c moved
    have hr := fun n => retarget_eq (env := env) n hl ht
    refine ⟨fun hx => ?_, fun x hx => ?_, fun n => convert_eq n hl ht⟩
    · have : b.retarget env e round = none := by rw [hr, hx]; rfl
      exact ⟨this, fun d => by unfold Body.testRetarget; rw [this]⟩
    · have : b.retarget env e round = some (moved x (round.getD r.round)) := by rw [hr, hx]; rfl
      exact ⟨this, fun d => by unfold Body.testRetarget; rw [this]⟩
  case new =>
    intro env b k c
    unfold Body.failNew
    refine ⟨fun h => by rw [(lowestFree_none b).2 h], fun e he => ?_⟩
    rw [(lowestFree_iff b e).2 he]
    refine ⟨fun hx => by rw [hx], fun x v hx hv => ?_⟩
    rw [hx]
    intro b1 tally
    have hnew : ((b.createRow e k x .test).countRepair k.chan).countTally k.chan k.bank = b1 := newEntry_eq e k x hv
    have hinv : b1.inv[c] = some { v.take x with tallies := v.tallies.modify k.bank (· + 1) } := Vector.getElem_set_self _
    obtain ⟨hbelow, htable, hbuffer⟩ := bankLimit_eq (env := env) (tally_eq hinv k.bank)
    dsimp only
    rw [hnew]
    refine ⟨hbelow, htable, fun hn hc => ?_⟩
    rw [hbuffer hn hc]
    refine ⟨fun hd => ?_, fun d hd => ?_⟩
    · unfold Body.excludeBank
      rw [(lowestFree_none b1).2 hd]
    · have htag : (v.take x).tag = v.tag := by rcases x with (_ | _) | _ <;> rfl
      rw [excludeBank_eq hinv hd]
      simp only [htag]

/-! ### The end of a change -/

/-- Settles O55: what an offer does, and what closing the overflows leaves of each link. -/
theorem endOfChangeClosesOverflows : Obligations.EndOfChangeClosesOverflows := by
  unfold Obligations.EndOfChangeClosesOverflows
  refine ⟨fun b c m n => ⟨offer_queues m n, offer_overflows m n, offer_discards m n⟩, fun env b => ?_⟩
  refine ⟨refreshLevels_levels _ env, finish_noOverflow env b, fun ho => finish_attention ho env, fun l hl => ?_⟩
  obtain ⟨hlink, hstate⟩ := closeOverflows_link env l 12 b (openLinks_le b) hl
  refine ⟨hlink.trans ?_, hstate.trans ?_⟩
  · rfl
  · cases b.chan[l].state <;> rfl

/-! ### The arbiter -/

/-- Only a plan step's slot can be held (R103). -/
theorem slotHeld_iff (b : Body) (k : StepKind) : b.slotHeld k = true ↔
    ∃ n, k = .plan n ∧ ∃ (d : ChanId) (sq : Spread), b.chan[d].admission = .held ⟨.plan n, sq⟩ := by
  cases k with
  | plan n =>
    rw [slotHeld_plan]
    exact ⟨fun h => ⟨n, rfl, h⟩, fun ⟨m, hm, h⟩ => StepKind.plan.inj hm ▸ h⟩
  | poolcheck | verify => simp [Body.slotHeld]

theorem fits_iff {env : Env} {b : Body} {c : ChanId} {k : StepKind} {sp : Spread} : b.fits env c ⟨k, sp⟩ = true ↔
    ((List.finRange 12).map fun d => if b.chan[d].admission.isHeld then (if d.val < 8 then 3 else 1) else 0).sum +
      (if c.val < 8 then 3 else 1) ≤ env.items.powerCeiling ∧
    (sp = .serial → ∀ n, k = .plan n → ∀ (d : ChanId) sq, b.chan[d].admission ≠ .held ⟨.plan n, sq⟩) := by
  unfold Body.fits
  rw [Bool.and_eq_true, decide_eq_true_iff, unitsInUse_sum, weight_eq]
  refine and_congr Iff.rfl ?_
  cases sp with
  | parallel => simp
  | serial =>
    have : b.slotHeld k = false ↔ ∀ n, k = .plan n → ∀ (d : ChanId) sq, b.chan[d].admission ≠ .held ⟨.plan n, sq⟩ := by
      rw [← Bool.not_eq_true, slotHeld_iff]
      simp only [not_exists, not_and, ne_eq]
    simpa using this

/-- R103: a visit starts the step that fits, and does nothing else. -/
theorem visit_waiting {env : Env} {b : Body} {c : ChanId} {a : Ask} (h : b.chan[c].admission = .waiting a) :
    b.visit env c = if b.fits env c a then b.startStep env c a else b := by
  unfold Body.visit
  rw [h]

/-- Settles O56: a visit by whether the step fits, and by the step's kind. -/
theorem arbiterAdmitsInOrder : Obligations.ArbiterAdmitsInOrder := by
  unfold Obligations.ArbiterAdmitsInOrder
  refine ⟨fun _ _ _ _ _ => rfl, fun _ _ => rfl, fun env b c => ⟨fun h => ?_, fun k sp h => ?_⟩⟩
  · unfold Body.visit
    split
    · exact absurd ‹_› (h _)
    · rfl
    · rfl
  · rw [visit_waiting h]
    refine ⟨fun hf => if_neg fun hx => hf (fits_iff.1 hx), fun hf => ?_⟩
    rw [if_pos (fits_iff.2 hf)]
    refine ⟨?_, ?_, ?_⟩
    · rintro rfl
      rfl
    · rintro ⟨n, rfl⟩
      rfl
    · rintro n x rfl hx
      simp only [Body.startStep, runStepMsg, hx]
      rfl

/-! ### The phases of a run -/

/-- The record after a walk over `before`: the slots skipped are counted. -/
theorem walkPlan_counts (env : Env) (b : Body) (c : ChanId) (before : List SlotNo)
    (h : ∀ n ∈ before, ∀ x, ¬(env.plan[n] = some x ∧ x.mask.getLsbD c.val = true ∧
      ¬(x.mandatory = false ∧ env.items.bootBudget ≤ b.elapsed env c))) (after : List SlotNo) :
    ∃ p, Body.walkPlan env c (before ++ after) b = Body.walkPlan env c after
      { b with chan := b.chan.set c { b.chan[c] with
        planPos := p
        skipped := b.chan[c].skipped + before.countP fun n : SlotNo =>
          (env.plan[n].any fun x => x.mask.getLsbD c.val && !x.mandatory) && decide (env.items.bootBudget ≤ b.elapsed env c) } } := by
  obtain ⟨p, hp⟩ := walkPlan_passes env c before b h after
  exact ⟨_, hp⟩

theorem walkPlan_runs {env : Env} {b : Body} {c : ChanId} {n : SlotNo} {x : PlanStep} (hx : env.plan[n] = some x)
    (hm : x.mask.getLsbD c.val = true) (hr : ¬(x.mandatory = false ∧ env.items.bootBudget ≤ b.elapsed env c))
    (after : List SlotNo) :
    Body.walkPlan env c (n :: after) b = (b.modChan c fun ch => { ch with planPos := some n }).ask env c (.plan n) x.spread := by
  rw [Body.walkPlan, hx]
  dsimp only
  rw [if_neg (by rw [hm]; exact Bool.noConfusion), if_neg hr]

/-- The install phase clears the walk's position. -/
theorem enterRepairInstall_planPos (env : Env) (b : Body) (c : ChanId) (p : Option SlotNo) (k : Nat) :
    Body.enterRepairInstall env { b with chan := b.chan.set c { b.chan[c] with planPos := p, skipped := k } } c =
    Body.enterRepairInstall env { b with chan := b.chan.set c { b.chan[c] with skipped := k } } c := by
  have : Body.beginInstalls { b with chan := b.chan.set c { b.chan[c] with planPos := p, skipped := k } } c .repairinstall =
      Body.beginInstalls { b with chan := b.chan.set c { b.chan[c] with skipped := k } } c .repairinstall := by
    simp [Body.beginInstalls, Body.modChan]
  unfold Body.enterRepairInstall
  rw [this]

theorem checkInstallPhase_seed {env : Env} {b : Body} {c : ChanId} (ht : b.chan[c].state = .test) (ho : b.installsOpen c = false)
    (hp : b.chan[c].phase = some .seedinstall) :
    b.checkInstallPhase env c = (b.modChan c fun ch => { ch with installPos := none }).enterMain env c := by
  unfold Body.checkInstallPhase
  rw [if_pos ⟨ht, ho⟩, hp]

theorem checkInstallPhase_repair {env : Env} {b : Body} {c : ChanId} (ht : b.chan[c].state = .test)
    (ho : b.installsOpen c = false) (hp : b.chan[c].phase = some .repairinstall) :
    b.checkInstallPhase env c = (b.modChan c fun ch => { ch with installPos := none }).afterRepairInstall env c := by
  unfold Body.checkInstallPhase
  rw [if_pos ⟨ht, ho⟩, hp]

/-- Settles O57: each phase by its condition, and the walk by the slots it passes over. -/
theorem phasesFollowEachOther : Obligations.PhasesFollowEachOther := by
  unfold Obligations.PhasesFollowEachOther
  intro env b c ch with_ open_ verifying installs
  have hopen : ∀ x : Body, x.installsOpen c = true ↔ open_ x := fun x => installsOpen_iff x c
  refine ⟨fun v hv => ?pool, fun h => if_pos ((hopen _).2 h), fun h => if_neg (mt (hopen _).1 h),
    fun h => if_pos ((hopen _).2 h), fun h => if_neg (mt (hopen _).1 h), ?keep, ?seed, ?repair, rfl, rfl, fun h => if_pos h,
    fun h => if_neg h, rfl, ?walk⟩
  case pool =>
    have : (b.inv[c].map (·.geo.poolRows)).getD 0 = v.geo.poolRows := by
      rw [hv]
      rfl
    unfold Body.enterPoolcheck
    rw [this]
    exact ⟨fun h => if_pos h, fun h => if_neg h⟩
  case keep =>
    intro h
    unfold Body.checkInstallPhase
    split
    · rename_i hh
      obtain ⟨ht, ho⟩ := hh
      have hphase : ch.phase ∉ [some .seedinstall, some .repairinstall] := by
        rcases h with h | h | h
        · exact absurd ht h
        · rw [(hopen b).2 h] at ho
          cases ho
        · exact h
      split
      · rename_i hp
        exact absurd (List.mem_cons.2 (.inl hp)) hphase
      · rename_i hp
        exact absurd (List.mem_cons_of_mem _ (List.mem_singleton.2 hp)) hphase
      · rfl
    · rfl
  case seed => exact fun ht ho hp => checkInstallPhase_seed ht (Bool.eq_false_iff.2 (mt (hopen b).1 ho)) hp
  case repair => exact fun ht ho hp => checkInstallPhase_repair ht (Bool.eq_false_iff.2 (mt (hopen b).1 ho)) hp
  case walk =>
    intro past skips runs before hbefore
    refine ⟨?_, fun n x after hrun => ?_⟩
    · obtain ⟨p, hp⟩ := walkPlan_counts env b c before hbefore []
      rw [List.append_nil] at hp
      exact hp.trans (enterRepairInstall_planPos env b c p _)
    · obtain ⟨p, hp⟩ := walkPlan_counts env b c before hbefore (n :: after)
      obtain ⟨hx, hm, hr⟩ := hrun
      have helapsed : ∀ q k, Body.elapsed env { b with chan := b.chan.set c { b.chan[c] with planPos := q, skipped := k } } c =
          b.elapsed env c := fun q k => elapsed_modChan (f := fun y => { y with planPos := q, skipped := k }) fun _ => rfl
      refine hp.trans ((walkPlan_runs hx hm (by rw [helapsed]; exact hr) after).trans ?_)
      exact congrArg (fun y : Body => y.ask env c (.plan n) x.spread) (modChan_modChan b c
        (fun y => { y with planPos := p, skipped := y.skipped + before.countP skips }) fun y => { y with planPos := some n })

end Sys2Proof.Proofs.Runs
end

section
/-! SUPPORT. The way of an entry: INSTALL and REMOVE, the fence queue and its head, and what of an entry these keep. -/

namespace Sys2Proof.Proofs.EntryWay

open Sys2Proof Sys2Proof.Machine Sys2Proof.Laws

/-! ### INSTALL and REMOVE -/

/-- The blocks after an entry has moved to another state. -/
def moved (b : Body) (e : EntryNo) (r : Live) (st : EntryState) : Body :=
  { b with dir := b.dir.set e ⟨b.dir[e].gen + 1#8, some { r with st := st }⟩ }

theorem moved_gen (b : Body) (e : EntryNo) (r : Live) (st : EntryState) : (moved b e r st).dir[e].gen = b.dir[e].gen + 1#8 := by
  simp [moved]

theorem sendInstall_eq {b : Body} {e : EntryNo} {r : Live} {x : Replacement} (hl : b.dir[e].live = some r) (hx : r.repl = some x)
    (resync : Bool) : b.sendInstall e resync = (moved b e r .installing).offer r.key.chan
      (.install r.key.bank r.key.row x) (.directory e (b.dir[e].gen + 1#8) resync) := by
  simp only [Body.sendInstall, hl, hx]
  rw [show b.setEntryState e .installing = moved b e r .installing from setEntryState_eq hl _, moved_gen]

theorem sendRemove_eq {b : Body} {e : EntryNo} {r : Live} (hl : b.dir[e].live = some r) :
    b.sendRemove e = (moved b e r .removing).offer r.key.chan (.remove r.key.bank r.key.row)
      (.directory e (b.dir[e].gen + 1#8) false) := by
  simp only [Body.sendRemove, hl]
  rw [show b.setEntryState e .removing = moved b e r .removing from setEntryState_eq hl _, moved_gen]

/-- An entry made and sent in one change takes two generations (R5, R10). -/
theorem changeEntry_sendInstall (b : Body) (e : EntryNo) {l : Live} {x : Replacement} (hx : l.repl = some x) :
    (b.changeEntry e (some l)).sendInstall e false =
      Body.offer { b with dir := b.dir.set e ⟨b.dir[e].gen + 2#8, some { l with st := .installing }⟩ } l.key.chan
        (.install l.key.bank l.key.row x) (.directory e (b.dir[e].gen + 2#8) false) := by
  have hgen : b.dir[e].gen + 1#8 + 1#8 = b.dir[e].gen + 2#8 := BitVec.add_assoc _ 1#8 1#8
  have hentry := changeEntry_same b e (some l)
  have hmoved : moved (b.changeEntry e (some l)) e l .installing =
      { b with dir := b.dir.set e ⟨b.dir[e].gen + 2#8, some { l with st := .installing }⟩ } := by
    unfold moved
    rw [hentry, hgen]
    exact congrArg (fun d => { b with dir := d }) (Vector.set_set ..)
  rw [sendInstall_eq (r := l) (by rw [hentry]) hx, hmoved, hentry, hgen]

/-! ### The fence queue -/

theorem queueFull_iff (b : Body) (c : ChanId) :
    b.queueFull c = true ↔ ∃ f : Fin 8, f.val = c.val ∧ 32 ≤ b.fence[f].queue.length := by
  unfold Body.queueFull
  rw [Bool.and_eq_true, isBuffer_eq, decide_eq_true_iff, decide_eq_true_iff]
  constructor
  · rintro ⟨hc, h⟩
    rw [fenceOf_buffer b (k := ⟨c.val, hc⟩) rfl] at h
    exact ⟨⟨c.val, hc⟩, rfl, h⟩
  · rintro ⟨f, hf, h⟩
    refine ⟨hf ▸ f.isLt, ?_⟩
    rw [fenceOf_buffer b hf]
    exact h

/-- R109: a head is served in SERVICE alone, and only while no fence is outstanding. -/
theorem serveHead_idle {env : Env} {b : Body} {c : ChanId}
    (h : b.chan[c].state ≠ .service ∨ ∀ f : Fin 8, f.val = c.val → b.fence[f].out ≠ none ∨ b.fence[f].queue = []) :
    b.serveHead env c = b := by
  unfold Body.serveHead
  split
  · rename_i hs hout hq
    have hc : c.val < 8 := by
      by_contra hc
      rw [fenceOf_table b (Nat.le_of_not_lt hc)] at hq
      cases hq
    rw [fenceOf_buffer b (k := ⟨c.val, hc⟩) rfl] at hout hq
    rcases h with h | h
    · exact absurd hs h
    · rcases h ⟨c.val, hc⟩ rfl with h | h
      · exact absurd hout h
      · rw [h] at hq
        cases hq
  · rfl

/-- R108: what serving a head does. -/
theorem serveHead_serves {env : Env} {b : Body} {c : ChanId} {f : Fin 8} {e : EntryNo} {es : List EntryNo} {r : Live}
    (hf : f.val = c.val) (hs : b.chan[c].state = .service) (hu : b.fence[f] = ⟨e :: es, none⟩) (hl : b.dir[e].live = some r) :
    b.serveHead env c =
      let k := b.link[c]
      let removal := r.st = .retireWait
      Body.offer
        { b with
          fence := b.fence.set f ⟨es, some ⟨k.fenceSerial, e, r.key.bank, r.key.row, if removal then .remove else .install,
            env.items.fenceTimeout⟩⟩
          link := b.link.set c { k with fenceSerial := k.fenceSerial + 1#8 }
          dir := b.dir.set e ⟨b.dir[e].gen + 1#8, some { r with st := if removal then .retireFencing else .fencing }⟩ }
        c (.fence k.fenceSerial r.key.bank r.key.row) .none := by
  unfold Body.serveHead
  rw [fenceOf_buffer b hf, hs, hu]
  dsimp only
  rw [hl]
  dsimp only
  rw [modFence_buffer b hf]
  refine setEntryState_eq (r := r) ?_ _
  exact hl

/-- A head that is FREE leaves the queue. -/
theorem serveHead_free {env : Env} {b : Body} {c : ChanId} {f : Fin 8} {e : EntryNo} {es : List EntryNo}
    (hf : f.val = c.val) (hs : b.chan[c].state = .service) (hu : b.fence[f] = ⟨e :: es, none⟩) (hl : b.dir[e].live = none) :
    b.serveHead env c = b.modFence c fun u => { u with queue := es } := by
  unfold Body.serveHead
  rw [fenceOf_buffer b hf, hs, hu]
  dsimp only
  rw [hl]

theorem onward_table {b : Body} {c : ChanId} (hc : 8 ≤ c.val) (env : Env) (sweep : Bool) (e : EntryNo) :
    b.onward env sweep c e = b.sendInstall e false := by
  unfold Body.onward
  rw [isBuffer_eq, if_neg (by simpa using hc)]

theorem joinQueue_buffer {b : Body} {c : ChanId} {f : Fin 8} (hf : f.val = c.val) (env : Env) (sweep : Bool) (e : EntryNo) :
    b.joinQueue env sweep c e =
      let joined := { b with fence := b.fence.set f { b.fence[f] with queue := b.fence[f].queue ++ [e] } }
      if sweep then joined else joined.serveHead env c := by
  unfold Body.joinQueue
  rw [modFence_buffer b hf]

theorem onward_buffer {b : Body} {c : ChanId} {f : Fin 8} (hf : f.val = c.val) (env : Env) (sweep : Bool) (e : EntryNo) :
    b.onward env sweep c e =
      let joined := { b with fence := b.fence.set f { b.fence[f] with queue := b.fence[f].queue ++ [e] } }
      if sweep then joined else joined.serveHead env c := by
  have hc : c.val < 8 := hf ▸ f.isLt
  unfold Body.onward
  rw [isBuffer_eq, if_pos (by simpa using hc)]
  exact joinQueue_buffer hf env sweep e

/-! ### A new entry -/

theorem createRow_eq (b : Body) (e : EntryNo) (k : Key) (x : Replacement) (o : Origin) : b.createRow e k x o =
    { b with
      inv := b.inv.set k.chan (b.inv[k.chan].map (·.take x))
      dir := b.dir.set e ⟨b.dir[e].gen + 1#8, some ⟨.pending, k, some x, none, o, (b.inv[k.chan].map (·.tag)).getD 0#16, 0⟩⟩ } :=
  rfl

/-! ### What the way of an entry keeps of it -/

theorem stays_offer {e : EntryNo} {x : Option Replacement} {b : Body} (c : ChanId) (m : Msg) (n : Note) (h : Stays e x b) :
    Stays e x (b.offer c m n) := stays_of_dir (offer_dir b c m n) h

theorem stays_made (b : Body) (e : EntryNo) (g : Byte) {l : Live} (h : leaving l = false) :
    Stays e l.repl { b with dir := b.dir.set e ⟨g, some l⟩ } := ⟨l, by simp, h, rfl⟩

theorem serveHead_stays {e : EntryNo} {x : Option Replacement} {b : Body} (env : Env) (c : ChanId) (h : Stays e x b) :
    Stays e x (b.serveHead env c) := by
  unfold Body.serveHead
  split
  · rename_i d _ _ _ _
    split
    · exact stays_of_dir (modFence_dir ..) h
    · rename_i r hr
      refine stays_of_dir (b := moved b d r (if r.st = .retireWait then .retireFencing else .fencing)) ?_ ?_
      · rw [setEntryState_eq (r := r) (by rw [offer_dir, modLink_dir, modFence_dir]; exact hr)]
        simp only [offer_dir, modLink_dir, modFence_dir]
        rfl
      · obtain ⟨q, hq, hleave, hx⟩ := h
        by_cases hd : d = e
        · subst hd
          obtain rfl : q = r := Option.some.inj (hq.symm.trans hr)
          have hst : q.st ≠ .retireWait := fun hst => by
            simp [leaving, hst] at hleave
          rw [if_neg hst]
          exact ⟨_, congrArg Entry.live (Vector.getElem_set_self d.isLt), rfl, hx⟩
        · refine ⟨q, ?_, hleave, hx⟩
          rw [← hq]
          exact congrArg Entry.live (Vector.getElem_set_ne d.isLt e.isLt fun hv => hd (Fin.ext hv))
  · exact h

end Sys2Proof.Proofs.EntryWay
end

section
/-! SUPPORT. The requests of class EDIT but for REFILLED: SEED, ADD_REPAIR and RETIRE, each with its checks as propositions and its
entry as it is made. -/

namespace Sys2Proof.Proofs.Edit

open Sys2Proof Sys2Proof.Machine Sys2Proof.Laws Sys2Proof.Proofs.EntryWay

/-! ### SEED: the operands and the checks -/

theorem targetOf_iff (mark t0 t1 : Nat) (t : Option Target) : targetOf mark t0 t1 = some t ↔
    (mark = 0 ∧ t = none) ∨ (mark = 1 ∧ t0 ≤ 31 ∧ t1 ≤ 3 ∧ t = some (.device t0 t1)) ∨
      (mark = 2 ∧ t0 ≤ 127 ∧ t = some (.pool t0)) := by
  unfold targetOf
  split
  · rename_i h
    simp [h, eq_comm]
  · split
    · rename_i h
      simp [h, eq_comm]
    · split
      · rename_i h
        simp [h, eq_comm]
      · rename_i h0 h1 h2
        refine ⟨(nomatch ·), ?_⟩
        rintro (⟨h, -⟩ | ⟨h, h', h'', -⟩ | ⟨h, h', -⟩)
        · exact absurd h h0
        · exact absurd ⟨h, h', h''⟩ h1
        · exact absurd ⟨h, h'⟩ h2

theorem targetFits_iff (o : Option Inventory) (k : Key) (t : Option Target) : t.all (targetFits o k) = true ↔
    (t ≠ none → k.row ≠ none) ∧ ∀ v, o = some v → match t with
      | none => True
      | some (.device g i) => g = k.bank / v.geo.banksPerGroup ∧ i < v.geo.sparesPerGroup
      | some (.pool n) => n < v.geo.poolRows := by
  have hrow : k.row.isSome = true ↔ k.row ≠ none := Option.isSome_iff_ne_none
  rcases t with _ | (⟨g, i⟩ | n)
  · simp
  · cases o <;> simp [targetFits, hrow, Geometry.group]
  · cases o <;> simp [targetFits, hrow]

theorem tagFits_iff (o : Option Inventory) (tag : Nat) : tagFits o tag = true ↔ ∀ v, o = some v → tag = 0 ∨ tag = v.tag.toNat := by
  cases o with
  | none => simp [tagFits]
  | some v =>
    have hcomm : v.tag.toNat = tag ↔ tag = v.tag.toNat := eq_comm
    simp [tagFits, hcomm]

theorem seedValid_iff (b : Body) (k : Key) (tag mark t0 t1 : Nat) (t : Option Target) : SeedValid b k tag mark t0 t1 t ↔
    targetOf mark t0 t1 = some t ∧ (t.all (targetFits b.inv[k.chan] k) && tagFits b.inv[k.chan] tag) = true := by
  rw [targetOf_iff, Bool.and_eq_true, targetFits_iff, tagFits_iff]
  unfold SeedValid
  exact ⟨fun ⟨h1, h2, h3⟩ => ⟨h1, ⟨h2, fun v hv => (h3 v hv).2⟩, fun v hv => (h3 v hv).1⟩,
    fun ⟨h1, ⟨h2, h3⟩, h4⟩ => ⟨h1, h2, fun v hv => ⟨h4 v hv, h3 v hv⟩⟩⟩

theorem seedable_iff (st : ChanState) : st.seedable = false ↔ st ∉ [.down, .idle, .ready, .failed] := by
  cases st <;> decide

theorem keyTaken_iff (b : Body) (k : Key) : b.keyTaken k = true ↔ ∃ (e : EntryNo) (r : Live), b.dir[e].live = some r ∧
    (r.key = k ∨ (k.row = none ∧ r.key.chan = k.chan ∧ r.key.bank = k.bank)) := by
  unfold Body.keyTaken
  rw [anyEntry_iff]
  simp [and_assoc]

theorem isFree_iff (v : Inventory) (x : Target) : v.isFree x = true ↔ match x with
    | .device g i => v.spare g i = some .free
    | .pool n => v.slots[n]? = some .free := by
  cases x <;> simp [Inventory.isFree]

theorem taken_iff (o : Option Inventory) (t : Option Target) : o.any (fun v => t.any fun x => !v.isFree x) = true ↔
    ∃ v x, o = some v ∧ t = some x ∧ ¬(match x with
      | .device g i => v.spare g i = some .free
      | .pool n => v.slots[n]? = some .free) := by
  cases o <;> cases t <;> simp [← isFree_iff]

/-! ### SEED: the entry -/

section Seed

variable {b : Body} {k : Key} {v : Inventory} (e : EntryNo) (tag : Nat)

theorem seedEntry_without (h : b.inv[k.chan] = none) (t : Option Target) : b.seedEntry e k tag t =
    b.changeEntry e (some ⟨.unresolved, k, none, t, .seed, BitVec.ofNat 16 tag, 0⟩) := by
  unfold Body.seedEntry
  rw [h]
  rfl

theorem seedEntry_target (h : b.inv[k.chan] = some v) (x : Target) : b.seedEntry e k tag (some x) =
    Body.changeEntry { b with inv := b.inv.set k.chan (some (v.take (.target x))) } e
      (some ⟨.pending, k, some (.target x), none, .seed, v.tag, 0⟩) := by
  unfold Body.seedEntry Body.modInv
  rw [h]
  rfl

theorem seedEntry_bank (h : b.inv[k.chan] = some v) (hr : k.row = none) : b.seedEntry e k tag none =
    Body.changeEntry { b with inv := b.inv.set k.chan (some v) } e (some ⟨.pending, k, some .exclude, none, .seed, v.tag, 0⟩) := by
  have hset : b.inv.set k.chan (some v) = b.inv := by
    rw [← h]
    exact Vector.set_getElem_self k.chan.isLt
  unfold Body.seedEntry
  simp only [h, hset, seedRepl, hr]
  rfl

theorem seedEntry_row (h : b.inv[k.chan] = some v) (hr : k.row ≠ none) : b.seedEntry e k tag none =
    b.changeEntry e (some ⟨.unresolved, k, none, none, .seed, v.tag, 0⟩) := by
  obtain ⟨row, hr⟩ := Option.ne_none_iff_exists'.1 hr
  unfold Body.seedEntry
  simp only [h, seedRepl, hr]
  rfl

end Seed

/-- R10: an entry without a replacement waits in READY too. -/
theorem sendInReady_unresolved (b : Body) (c : ChanId) (e : EntryNo) {l : Live} (h : l.repl = none) :
    (b.changeEntry e (some l)).sendInReady c e = b.changeEntry e (some l) := by
  unfold Body.sendInReady
  rw [changeEntry_same, Option.bind_some, h]
  cases (b.changeEntry e (some l)).chan[c].state <;> rfl

/-- R10: a new entry of kind POOL or EXCLUDE is sent in READY, and every other one waits. -/
theorem sendInReady_pending (b : Body) (c : ChanId) (e : EntryNo) {l : Live} {x : Replacement} (hx : l.repl = some x)
    (hc : l.key.chan = c) :
    (¬(b.chan[c].state = .ready ∧ ∀ g i, x ≠ .target (.device g i)) →
      (b.changeEntry e (some l)).sendInReady c e = b.changeEntry e (some l)) ∧
    ((b.chan[c].state = .ready ∧ ∀ g i, x ≠ .target (.device g i)) → (b.changeEntry e (some l)).sendInReady c e =
      Body.offer { b with dir := b.dir.set e ⟨b.dir[e].gen + 2#8, some { l with st := .installing }⟩ } c
        (.install l.key.bank l.key.row x) (.directory e (b.dir[e].gen + 2#8) false)) := by
  subst hc
  refine ⟨fun h => ?_, fun ⟨hs, hn⟩ => .trans ?_ (changeEntry_sendInstall b e hx)⟩
  · unfold Body.sendInReady
    rw [changeEntry_same, Option.bind_some, hx, changeEntry_chan]
    split
    · rename_i hs hp
      exact absurd ⟨hs, fun g i hd => by rw [hd] at hp; cases hp⟩ h
    · rename_i hs hp
      exact absurd ⟨hs, fun g i hd => by rw [hd] at hp; cases hp⟩ h
    · rfl
  · unfold Body.sendInReady
    rw [changeEntry_same, Option.bind_some, hx, changeEntry_chan, hs]
    rcases x with (⟨g, i⟩ | n) | _
    · exact absurd rfl (hn g i)
    · rfl
    · rfl

theorem withBody_eq (s : State) (b : Body) : s.withBody b = { s with body := b.finish s.env } := rfl

/-! ### SEED: the answer -/

section SeedAnswer

variable {s : State} {k : Key} {tag : Nat} {t : Option Target}

/-- R7: a SEED that passes its checks. -/
theorem seedAnswer_makes (h1 : ¬s.body.chan[k.chan].state.seedable = false) (h2 : ¬s.body.excluded k.chan k.bank = true)
    (h3 : ¬s.body.keyTaken k = true) (h4 : ¬s.body.inv[k.chan].any (fun v => t.any fun x => !v.isFree x) = true)
    {e : EntryNo} (he : s.body.lowestFree = some e) {b' : Body} (hb : (s.body.seedEntry e k tag t).sendInReady k.chan e = b') :
    s.seedAnswer k tag t = ⟨s.withBody b', .ok,
      be2 e.val ++ be1 (s.withBody b').body.dir[e].stateCode ++ [(s.withBody b').body.dir[e].gen]⟩ := by
  unfold State.seedAnswer
  dsimp only
  rw [if_neg h1, if_neg h2, if_neg h3, if_neg h4, he]
  dsimp only
  rw [hb]
  simp only [State.accept, Entry.stateBytes, List.append_assoc]

theorem seedAnswer_full (h1 : ¬s.body.chan[k.chan].state.seedable = false) (h2 : ¬s.body.excluded k.chan k.bank = true)
    (h3 : ¬s.body.keyTaken k = true) (h4 : ¬s.body.inv[k.chan].any (fun v => t.any fun x => !v.isFree x) = true)
    (he : s.body.lowestFree = none) : s.seedAnswer k tag t = s.refuse .full := by
  unfold State.seedAnswer
  dsimp only
  rw [if_neg h1, if_neg h2, if_neg h3, if_neg h4, he]

end SeedAnswer

/-- Settles O23: the checks in their order, and the entry by inventory, target and scope. -/
theorem seedChecksAndMakesEntry : Obligations.SeedChecksAndMakesEntry := by
  unfold Obligations.SeedChecksAndMakesEntry
  intro s p tag o tg mark t0 t1 rq b hasked
  refine ⟨fun h => refused_of hasked rfl rfl ?invalid, fun k t hk ht => ?_⟩
  case invalid =>
    split
    · rename_i k t hk ht
      exact if_neg fun hfit => h k t ((validKey_iff _ _ _).1 hk) ((seedValid_iff ..).2 ⟨ht, hfit⟩)
    · rfl
  obtain ⟨htarget, hfit⟩ := (seedValid_iff ..).1 ht
  have hans : ∀ {st payload} {u : State}, s.seedAnswer k tg t = ⟨u, st, payload⟩ → Answers s p tag rq u st payload :=
    fun ha => answers_of hasked rfl rfl (by
      rw [(validKey_iff _ _ _).2 hk, htarget]
      exact (if_pos hfit).trans ha)
  intro made
  refine ⟨fun h => hans (if_pos ((seedable_iff _).2 h)), fun h1 => ?_⟩
  replace h1 := mt (seedable_iff _).1 h1
  refine ⟨fun h => hans ((if_neg h1).trans (if_pos ((excluded_iff b _ _).2 h))), fun h2 => ?_⟩
  replace h2 := mt (excluded_iff b _ _).1 h2
  refine ⟨fun h => hans ((if_neg h1).trans ((if_neg h2).trans (if_pos ((keyTaken_iff b k).2 h)))), fun h3 => ?_⟩
  replace h3 := mt (keyTaken_iff b k).1 h3
  refine ⟨fun h => hans ((if_neg h1).trans ((if_neg h2).trans ((if_neg h3).trans (if_pos ((taken_iff _ _).2 h))))), fun h4 => ?_⟩
  replace h4 := mt (taken_iff _ _).1 h4
  refine ⟨fun h => hans (seedAnswer_full h1 h2 h3 h4 ((lowestFree_none b).2 h)), fun _ e he => ?_⟩
  have hmade : ∀ {b' : Body}, (b.seedEntry e k tg t).sendInReady k.chan e = b' → made b' := by
    intro b' hb
    refine ⟨_, rfl, fun d hd => ?_⟩
    obtain rfl : d = e := Option.some.inj (((lowestFree_iff b d).2 hd).symm.trans ((lowestFree_iff b e).2 he))
    exact hans (seedAnswer_makes h1 h2 h3 h4 ((lowestFree_iff b d).2 he) hb)
  refine ⟨fun hv => hmade ?_, fun v hv => ⟨fun x hx => ?_, fun hx hr => ?_, fun hx hr => hmade ?_⟩⟩
  · rw [seedEntry_without e tg hv, sendInReady_unresolved _ _ _ rfl]
    rfl
  · subst hx
    have hsend := sendInReady_pending { b with inv := b.inv.set k.chan (some (v.take (.target x))) } k.chan e
      (l := ⟨.pending, k, some (.target x), none, .seed, v.tag, 0⟩) rfl rfl
    rw [← seedEntry_target e tg hv] at hsend
    exact ⟨fun h => hmade ((hsend.1 h).trans (seedEntry_target e tg hv x)), fun h => hmade (hsend.2 h)⟩
  · subst hx
    have hsend := sendInReady_pending { b with inv := b.inv.set k.chan (some v) } k.chan e
      (l := ⟨.pending, k, some .exclude, none, .seed, v.tag, 0⟩) rfl rfl
    rw [← seedEntry_bank e tg hv hr] at hsend
    exact ⟨fun h => hmade ((hsend.1 h).trans (seedEntry_bank e tg hv hr)), fun h => hmade (hsend.2 h)⟩
  · rw [hx, seedEntry_row e tg hv hr, sendInReady_unresolved _ _ _ rfl]
    rfl

/-! ### ADD_REPAIR -/

theorem addable_iff (st : ChanState) : st.addable = false ↔ st ∉ [.service, .idle, .ready] := by
  cases st <;> decide

theorem findKey_isSome (b : Body) (k : Key) :
    (b.findKey k).isSome = true ↔ ∃ (e : EntryNo) (r : Live), b.dir[e].live = some r ∧ r.key = k := by
  rw [Option.isSome_iff_ne_none, ne_eq, findKey_none]
  simp only [not_forall, ne_eq, not_not, exists_prop]

/-- The kind, the mark and the target of a new entry's reply (R115; log 15). -/
def madeBytes : Replacement → List Byte
  | .target (.device g i) => be1 0 ++ [1#8] ++ be1 g ++ be1 i
  | .target (.pool n) => be1 1 ++ [1#8] ++ be1 n ++ [0#8]
  | .exclude => be1 2 ++ zeros 3

theorem repairBytes_eq {y : Entry} {x : Replacement} (h : y.live.bind (·.repl) = some x) :
    y.repairBytes = be1 y.stateCode ++ [y.gen] ++ madeBytes x := by
  unfold Entry.repairBytes
  rw [h]
  rcases x with (_ | _) | _ <;> rfl

theorem stays_repl {e : EntryNo} {x : Option Replacement} {b : Body} (h : Stays e x b) : b.dir[e].live.bind (·.repl) = x := by
  obtain ⟨r, hl, -, hx⟩ := h
  rw [hl, Option.bind_some, hx]

section AddAnswer

variable {s : State} {k : Key}

/-- R115: an ADD_REPAIR that passes its checks. -/
theorem addAnswer_makes (h1 : ¬(s.body.chan[k.chan].state.addable = false ∨ s.body.inv[k.chan].isNone = true))
    (h2 : ¬s.body.excluded k.chan k.bank = true) (h3 : ¬(s.body.findKey k).isSome = true)
    (h4 : ¬(s.body.chan[k.chan].state = .service ∧ s.body.queueFull k.chan = true)) {e : EntryNo} {x : Replacement}
    (he : s.body.lowestFree = some e) (hx : s.body.choose s.env k.chan k.bank = some x) {b' : Body}
    (hb : (s.body.createRow e k x .manual).addOnward s.env k.chan e = b') (hstays : Stays e (some x) b') :
    s.addAnswer k = ⟨s.withBody b', .ok,
      be2 e.val ++ be1 (s.withBody b').body.dir[e].stateCode ++ [(s.withBody b').body.dir[e].gen] ++ madeBytes x⟩ := by
  have hbytes := repairBytes_eq (stays_repl (finish_stays s.env hstays))
  unfold State.addAnswer
  dsimp only
  rw [if_neg h1, if_neg h2, if_neg h3, if_neg h4, he]
  dsimp only
  rw [hx]
  dsimp only
  rw [hb]
  simp only [State.accept, withBody_eq, hbytes, List.append_assoc]

theorem addAnswer_full (h1 : ¬(s.body.chan[k.chan].state.addable = false ∨ s.body.inv[k.chan].isNone = true))
    (h2 : ¬s.body.excluded k.chan k.bank = true) (h3 : ¬(s.body.findKey k).isSome = true)
    (h4 : ¬(s.body.chan[k.chan].state = .service ∧ s.body.queueFull k.chan = true))
    (h : s.body.lowestFree = none ∨ s.body.choose s.env k.chan k.bank = none) : s.addAnswer k = s.refuse .full := by
  unfold State.addAnswer
  dsimp only
  rw [if_neg h1, if_neg h2, if_neg h3, if_neg h4]
  rcases h with h | h
  · rw [h]
  · cases s.body.lowestFree with
    | none => rfl
    | some e =>
      dsimp only
      rw [h]

end AddAnswer

section AddOnward

variable (env : Env) {b : Body} {c : ChanId} (e : EntryNo)

theorem addOnward_idle (h : b.chan[c].state = .idle) : b.addOnward env c e = b := by
  unfold Body.addOnward
  rw [h]

theorem addOnward_ready (h : b.chan[c].state = .ready) : b.addOnward env c e = b.sendInstall e false := by
  unfold Body.addOnward
  rw [h]

theorem addOnward_service (h : b.chan[c].state = .service) : b.addOnward env c e = b.onward env false c e := by
  unfold Body.addOnward
  rw [h]

/-- R114: in READY, and on a TABLE channel in SERVICE, a new entry is sent at once. -/
theorem addOnward_sends (h : b.chan[c].state = .ready ∨ (b.chan[c].state = .service ∧ 8 ≤ c.val)) :
    b.addOnward env c e = b.sendInstall e false := by
  rcases h with h | ⟨h, hc⟩
  · exact addOnward_ready env e h
  · rw [addOnward_service env e h, onward_table hc]

end AddOnward

/-- Settles O24: the checks in their order, and the new entry's way by its channel's state. -/
theorem addRepairChecksAndMakesEntry : Obligations.AddRepairChecksAndMakesEntry := by
  unfold Obligations.AddRepairChecksAndMakesEntry
  intro s p tag n bank row rq b hasked
  refine ⟨fun h => refused_of hasked rfl rfl (by rw [(validKey_none _ _).2 h]), fun k hk => ?_⟩
  have hans : ∀ {st payload} {u : State}, s.addAnswer k = ⟨u, st, payload⟩ → Answers s p tag rq u st payload :=
    fun ha => answers_of hasked rfl rfl (by
      rw [(validKey_iff _ _ _).2 hk]
      exact ha)
  intro st
  have hbusy : (b.chan[k.chan].state.addable = false ∨ b.inv[k.chan].isNone = true) ↔
      st ∉ [.service, .idle, .ready] ∨ b.inv[k.chan] = none := or_congr (addable_iff _) Option.isNone_iff_eq_none
  have hqueue : (b.chan[k.chan].state = .service ∧ b.queueFull k.chan = true) ↔
      st = .service ∧ ∃ f : Fin 8, f.val = k.chan.val ∧ 32 ≤ b.fence[f].queue.length := and_congr Iff.rfl (queueFull_iff ..)
  refine ⟨fun h => hans (if_pos (hbusy.2 h)), fun h1 => ?_⟩
  replace h1 := mt hbusy.1 h1
  refine ⟨fun h => hans ((if_neg h1).trans (if_pos ((excluded_iff b _ _).2 h))), fun h2 => ?_⟩
  replace h2 := mt (excluded_iff b _ _).1 h2
  refine ⟨fun h => hans ((if_neg h1).trans ((if_neg h2).trans (if_pos ((findKey_isSome b k).2 h)))), fun h3 => ?_⟩
  replace h3 := mt (findKey_isSome b k).1 h3
  refine ⟨fun h => hans ((if_neg h1).trans ((if_neg h2).trans ((if_neg h3).trans (if_pos (hqueue.2 h))))), fun h4 => ?_⟩
  replace h4 := mt hqueue.1 h4
  refine ⟨fun h => hans (addAnswer_full h1 h2 h3 h4 (.inl ((lowestFree_none b).2 h))), fun _ =>
    ⟨fun h => hans (addAnswer_full h1 h2 h3 h4 (.inr h)), fun _ e x he hx => ?_⟩⟩
  intro gen entry b1 made
  have hmade : ∀ {b' : Body}, b1.addOnward s.env k.chan e = b' → Stays e (some x) b' → made b' := fun hb hstays =>
    ⟨_, rfl, hans (addAnswer_makes h1 h2 h3 h4 ((lowestFree_iff b e).2 he) hx hb hstays)⟩
  refine ⟨fun h => hmade (addOnward_idle s.env e h) (stays_made _ e _ rfl), fun h => hmade ?_ ?_, fun f h hf => hmade ?_ ?_⟩
  · refine (addOnward_sends (b := b1) s.env e h).trans ?_
    exact changeEntry_sendInstall { b with inv := b.inv.set k.chan (b.inv[k.chan].map (·.take x)) } e (l := entry .pending) rfl
  · exact stays_offer _ _ _ (stays_made { b1 with dir := b.dir } e _ (l := entry .installing) rfl)
  · exact (addOnward_service (b := b1) s.env e h).trans (onward_buffer hf s.env false e)
  · exact serveHead_stays _ _ (stays_made { b1 with
      dir := b.dir, fence := b.fence.set f { b.fence[f] with queue := b.fence[f].queue ++ [e] } } e _ (l := entry .pending) rfl)

/-! ### RETIRE -/

theorem inForce_iff (r : Live) : r.inForce = true ↔ r.st = .active ∨ r.st = .refill := by
  unfold Live.inForce
  rw [Bool.or_eq_true, beq_iff_eq, beq_iff_eq]

theorem inExchange_iff (r : Live) :
    r.inExchange = true ↔ r.st ∈ [.fencing, .installing, .retireWait, .retireFencing, .removing] := by
  unfold Live.inExchange
  cases r.st <;> decide

theorem isDevice_iff (r : Live) : r.isDevice = true ↔ ∃ g i, r.repl = some (.target (.device g i)) := by
  unfold Live.isDevice
  rcases r.repl with _ | (_ | _) | _ <;> simp

/-- R19, check 5, as a proposition. -/
theorem fixed_iff (b : Body) (r : Live) : (r.inForce && r.isDevice && (b.chan[r.key.chan].state == .ready ||
      b.chan[r.key.chan].state == .service || b.chan[r.key.chan].state == .test || b.chan[r.key.chan].state == .resync)) = true ↔
    (r.st = .active ∨ r.st = .refill) ∧ (∃ g i, r.repl = some (.target (.device g i))) ∧
      b.chan[r.key.chan].state ∈ [.ready, .service, .test, .resync] := by
  rw [Bool.and_eq_true, Bool.and_eq_true, inForce_iff, isDevice_iff, and_assoc]
  simp [or_assoc]

/-- R19, check 6, as a proposition. -/
theorem busy_iff (b : Body) (r : Live) : (r.inForce && (b.chan[r.key.chan].state == .test ||
      b.chan[r.key.chan].state == .resync)) = true ↔
    (r.st = .active ∨ r.st = .refill) ∧ b.chan[r.key.chan].state ∈ [.test, .resync] := by
  rw [Bool.and_eq_true, inForce_iff]
  simp

/-- R19, check 7, as a proposition. -/
theorem retireFull_iff (b : Body) (r : Live) :
    (r.inForce && b.chan[r.key.chan].state == .service && b.queueFull r.key.chan) = true ↔
    (r.st = .active ∨ r.st = .refill) ∧ b.chan[r.key.chan].state = .service ∧
      ∃ f : Fin 8, f.val = r.key.chan.val ∧ 32 ≤ b.fence[f].queue.length := by
  rw [Bool.and_eq_true, Bool.and_eq_true, inForce_iff, queueFull_iff, beq_iff_eq, and_assoc]

section RetireAnswer

variable {s : State} {e : EntryNo} {gen : Nat} {r : Live}

theorem retireAnswer_refused (hg : s.body.dir[e].gen.toNat = gen) (hl : s.body.dir[e].live = some r) {st : Status}
    (ho : s.body.retireRefusal r = some st) : s.retireAnswer e gen = s.refuse st := by
  unfold State.retireAnswer
  rw [if_neg (by simpa using hg), hl]
  dsimp only
  rw [ho]

theorem retireAnswer_makes (hg : s.body.dir[e].gen.toNat = gen) (hl : s.body.dir[e].live = some r)
    (ho : s.body.retireRefusal r = none) : s.retireAnswer e gen = (s.withBody (s.body.retire s.env e r)).accept
      (s.withBody (s.body.retire s.env e r)).body.dir[e].stateBytes := by
  unfold State.retireAnswer
  rw [if_neg (by simpa using hg), hl]
  dsimp only
  rw [ho]

end RetireAnswer

section Retire

variable (env : Env) {b : Body} {r : Live} (e : EntryNo)

theorem retire_waiting (h : ¬r.inForce = true) :
    b.retire env e r = (b.freeEntry e).checkInstallPhase env r.key.chan := if_neg h

theorem retire_joins {f : Fin 8} (h : r.inForce = true) (hs : b.chan[r.key.chan].state = .service) (hf : f.val = r.key.chan.val)
    (hl : b.dir[e].live = some r) : b.retire env e r = Body.serveHead env
      { b with
        dir := b.dir.set e ⟨b.dir[e].gen + 1#8, some { r with st := .retireWait }⟩
        fence := b.fence.set f { b.fence[f] with queue := b.fence[f].queue ++ [e] } } r.key.chan := by
  have hc : isBuffer r.key.chan = true := by
    rw [isBuffer_eq, decide_eq_true_iff]
    exact hf ▸ f.isLt
  unfold Body.retire
  dsimp only
  rw [if_pos h, hs]
  dsimp only
  rw [if_pos hc, joinQueue_buffer hf, setEntryState_eq hl]
  rfl

theorem retire_removes (h : r.inForce = true) (hs : b.chan[r.key.chan].state = .ready ∨
      (b.chan[r.key.chan].state = .service ∧ 8 ≤ r.key.chan.val)) : b.retire env e r = b.sendRemove e := by
  unfold Body.retire
  dsimp only
  rw [if_pos h]
  rcases hs with hs | ⟨hs, hc⟩
  · rw [hs]
  · rw [hs]
    exact if_neg (by rw [isBuffer_eq]; simpa using hc)

theorem retire_frees (h : r.inForce = true) (hs : b.chan[r.key.chan].state ∈ [.idle, .down, .lost, .failed]) :
    b.retire env e r = b.freeEntry e := by
  unfold Body.retire
  dsimp only
  rw [if_pos h]
  simp only [List.mem_cons, List.not_mem_nil, or_false] at hs
  rcases hs with hs | hs | hs | hs <;> rw [hs]

end Retire

/-- Settles O25: the checks in their order, and the entry's way out by its state and its channel's. -/
theorem retireChecksAndRemoves : Obligations.RetireChecksAndRemoves := by
  unfold Obligations.RetireChecksAndRemoves
  intro s p tag n gen rq b hasked
  refine ⟨fun h => refused_of hasked rfl rfl (by simp only [(entryOf_none n).2 h]), fun e he => ?_⟩
  have hans : ∀ {st payload} {u : State}, s.retireAnswer e gen = ⟨u, st, payload⟩ → Answers s p tag rq u st payload :=
    fun ha => answers_of hasked rfl rfl (by
      rw [(entryOf_some n e).2 he]
      exact ha)
  refine ⟨fun h => hans (if_pos h), fun hg hl => hans ?_, fun r hg hl => ?_⟩
  · unfold State.retireAnswer
    rw [if_neg (by simpa using hg), hl]
    rfl
  intro c st inForce made
  refine ⟨fun h => hans (retireAnswer_refused hg hl (if_pos ((inExchange_iff r).2 h))), fun h1 => ?_⟩
  replace h1 := mt (inExchange_iff r).1 h1
  refine ⟨fun h => hans (retireAnswer_refused hg hl ((if_neg h1).trans (if_pos ((fixed_iff b r).2 h)))), fun h2 => ?_⟩
  replace h2 := mt (fixed_iff b r).1 h2
  refine ⟨fun h => hans (retireAnswer_refused hg hl ((if_neg h1).trans ((if_neg h2).trans (if_pos ((busy_iff b r).2 h))))),
    fun h3 => ?_⟩
  replace h3 := mt (busy_iff b r).1 h3
  refine ⟨fun h => hans (retireAnswer_refused hg hl ((if_neg h1).trans ((if_neg h2).trans ((if_neg h3).trans
    (if_pos ((retireFull_iff b r).2 h)))))), fun h4 => ?_⟩
  replace h4 := mt (retireFull_iff b r).1 h4
  have hpass : b.retireRefusal r = none := (if_neg h1).trans ((if_neg h2).trans ((if_neg h3).trans (if_neg h4)))
  have hmade : ∀ {b' : Body}, b.retire s.env e r = b' → made b' := by
    rintro b' rfl
    exact ⟨_, rfl, hans (retireAnswer_makes hg hl hpass)⟩
  refine ⟨fun h => hmade (retire_waiting s.env e fun hf => ?_), fun h =>
    ⟨fun f hs hf => hmade (retire_joins s.env e ((inForce_iff r).2 h) hs hf hl), fun hs => hmade ?_,
      fun hs => hmade (retire_frees s.env e ((inForce_iff r).2 h) hs)⟩⟩
  · rw [inForce_iff] at hf
    rcases h with h | h <;> rw [h] at hf <;> simp at hf
  · rw [retire_removes s.env e ((inForce_iff r).2 h) hs]
    exact sendRemove_eq hl

end Sys2Proof.Proofs.Edit
end

section
/-! SUPPORT. The repair links outward: training, the loss of a link and what its channel does, the lane, and the runs of INSTALL frames. -/

namespace Sys2Proof.Proofs.LinkOut

open Sys2Proof Sys2Proof.Machine Sys2Proof.Laws

/-- A counter of R126 stops at 65535. -/
theorem bump_eq (n : Nat) : bump n = if n < 65535 then n + 1 else 65535 := by
  unfold bump
  split <;> omega

/-! ### The commands -/

section Arms

variable (l : ChanId) (s : State)

theorem exec_trainingTimerExpiry : exec (.trainingTimerExpiry l) s =
    onEvent s (s.body.link[l].state == .training && s.body.link[l].training == some 0) fun _ b => b.modLink l (·.sendInit l) := rfl

theorem exec_lossOfSignal : exec (.lossOfSignal l) s =
    onEvent s (s.body.linkUp l) fun env b => b.linkDown env l Counters.signalLoss := rfl

theorem exec_ackTimerExpiry (q : BitVec 4) : exec (.ackTimerExpiry l q) s =
    onEvent s (s.body.linkUp l && s.body.link[l].inflight.any fun f => f.seq == q && f.timer == 0) fun env b =>
      b.linkDown env l Counters.ackTimeout := rfl

theorem exec_frameSent : exec (.frameSent l) s =
    onEvent s true fun env b => (b.modLink l fun k => { k with lane := none }).advanceLane env l := rfl

end Arms

/-! ### Training -/

/-- Settles O35: the expiry due, and any other. -/
theorem trainingTimerSendsInit : Obligations.TrainingTimerSendsInit := by
  unfold Obligations.TrainingTimerSendsInit
  intro s l k
  rw [exec_trainingTimerExpiry]
  refine ⟨fun hr hs ht => onEvent_due _ hr ?_, fun h => onEvent_not_due _ ?_, rfl⟩
  · rw [Bool.and_eq_true, beq_iff_eq, beq_iff_eq]
    exact ⟨hs, ht⟩
  · rw [Bool.and_eq_true, beq_iff_eq, beq_iff_eq]
    exact h

/-! ### A link that leaves UP -/

theorem linkUp_iff (b : Body) (c : ChanId) : b.linkUp c = true ↔ b.link[c].state = .up := beq_iff_eq

theorem signalLoss_eq (n : Counters) : n.signalLoss =
    { n with lossesOfSignal := if n.lossesOfSignal < 65535 then n.lossesOfSignal + 1 else 65535 } := by
  unfold Counters.signalLoss
  rw [bump_eq]

theorem ackTimeout_eq (n : Counters) : n.ackTimeout =
    { n with ackTimeouts := if n.ackTimeouts < 65535 then n.ackTimeouts + 1 else 65535 } := by
  unfold Counters.ackTimeout
  rw [bump_eq]

/-- R129: the link's record as it leaves UP, and its channel told. -/
theorem linkDown_eq (env : Env) (b : Body) (c : ChanId) (count : Counters → Counters) {n : Counters}
    (h : count b.link[c].counters = n) : b.linkDown env c count = Body.linkLost env { b with
      link := b.link.set c { b.link[c] with
        state := .training, rx := [], sendq := [], inflight := [], counters := n, training := some 1
        lane := some ⟨0#4, .init c⟩, overflow := false } } c := by
  subst h
  rfl

/-- The acknowledgement timer of a frame in flight with this number has expired. -/
theorem ackDue_iff (k : Link) (q : BitVec 4) :
    (k.inflight.any fun f => f.seq == q && f.timer == 0) = true ↔ ∃ f ∈ k.inflight, f.seq = q ∧ f.timer = 0 := by
  simp

theorem modFence_rest (b : Body) (c : ChanId) (f : FenceUnit → FenceUnit) :
    b.modFence c f = { b with fence := (b.modFence c f).fence } := by
  unfold Body.modFence
  split <;> rfl

theorem foldl_raise_chan (k : Condition) (ks : List Key) : ∀ b : Body,
    (ks.foldl (fun (x : Body) y => x.raise k (.key y)) b).chan = b.chan := by
  induction ks with
  | nil => exact fun _ => rfl
  | cons y ys ih => exact fun b => ih (b.raise k (.key y))

theorem removingKeys_eq (b : Body) (c : ChanId) : b.removingKeys c = (List.finRange 1024).filterMap fun e =>
    b.dir[e].live.bind fun r => if r.key.chan = c ∧ r.st = .removing then some r.key else none := by
  unfold Body.removingKeys
  rw [entriesWhere_eq, List.filterMap_filter]
  congr 1
  funext e
  cases b.dir[e].live with
  | none => rfl
  | some r => by_cases h1 : r.key.chan = c <;> by_cases h2 : r.st = .removing <;> simp [h1, h2]

/-- R119: the record of a channel that goes LOST. -/
theorem lost_eq (c : ChanId) (owed : List Key) (b1 : Body) :
    let b2 := (owed.foldl (fun (x : Body) k => x.raise .refillNeeded (.key k)) b1).raise .linkLost (.channel c)
    b2.modChan c (fun ch => { ch.quiet with state := .lost }) = { b2 with chan := b2.chan.set c { b1.chan[c] with
      state := .lost, phase := none, planPos := none, step := none, admission := .none, releaseOut := false
      installPos := none, walkPos := none, awaited := none, linkWait := none, geomWait := none, stepTimer := none } } := by
  intro b2
  have hchan : b2.chan = b1.chan := foldl_raise_chan .refillNeeded owed b1
  unfold Body.modChan
  simp only [hchan]
  rfl

theorem enterLost_eq (b : Body) (c : ChanId) : b.enterLost c =
    let b1 := (b.modFence c fun u => { u with out := none }).settle c
    let owed := if c.val < 8 then [] else (List.finRange 1024).filterMap fun e => b.dir[e].live.bind fun r =>
      if r.key.chan = c ∧ r.st = .removing then some r.key else none
    let b2 := (owed.foldl (fun (x : Body) k => x.raise .refillNeeded (.key k)) b1).raise .linkLost (.channel c)
    { b2 with chan := b2.chan.set c { b1.chan[c] with
      state := .lost, phase := none, planPos := none, step := none, admission := .none, releaseOut := false
      installPos := none, walkPos := none, awaited := none, linkWait := none, geomWait := none, stepTimer := none } } := by
  have howed : (if isBuffer c then [] else b.removingKeys c) = if c.val < 8 then [] else
      (List.finRange 1024).filterMap fun e => b.dir[e].live.bind fun r =>
        if r.key.chan = c ∧ r.st = .removing then some r.key else none := by
    rw [isBuffer_eq, removingKeys_eq]
    simp only [decide_eq_true_eq]
  unfold Body.enterLost
  rw [howed]
  exact lost_eq c _ _

/-- Settles O36: each event due or not, and the channel by its state. -/
theorem linkLeavesUp : Obligations.LinkLeavesUp := by
  unfold Obligations.LinkLeavesUp
  refine ⟨fun s l => ⟨fun hr hs => ⟨?loss, fun f hf ht => ?ack⟩, fun h => ?_, fun q h => ?_⟩, fun env b c => ⟨?fails, ?_, ?keep, ?lost⟩⟩
  case loss =>
    rw [exec_lossOfSignal]
    refine (onEvent_due _ hr ((linkUp_iff _ _).2 hs)).trans ?_
    exact congrArg (fun b => Host.Outcome.next (s.withBody b)) (linkDown_eq s.env s.body l _ (signalLoss_eq _))
  case ack =>
    rw [exec_ackTimerExpiry]
    refine (onEvent_due _ hr (Bool.and_eq_true_iff.2 ⟨(linkUp_iff _ _).2 hs, (ackDue_iff _ _).2 ⟨f, hf, rfl, ht⟩⟩)).trans ?_
    exact congrArg (fun b => Host.Outcome.next (s.withBody b)) (linkDown_eq s.env s.body l _ (ackTimeout_eq _))
  · rw [exec_lossOfSignal]
    exact onEvent_not_due _ (by rw [linkUp_iff]; exact h)
  · rw [exec_ackTimerExpiry]
    exact onEvent_not_due _ (by rw [Bool.and_eq_true, linkUp_iff, ackDue_iff]; exact h)
  case fails =>
    intro h
    unfold Body.linkLost
    simp only [List.mem_cons, List.not_mem_nil, or_false] at h
    rcases h with h | h <;> rw [h]
  · intro h
    unfold Body.linkLost
    rw [h]
    rfl
  case keep =>
    intro h
    unfold Body.linkLost
    simp only [List.mem_cons, List.not_mem_nil, or_false] at h
    rcases h with h | h | h <;> rw [h]
  case lost =>
    intro h
    refine ⟨b.modFence c fun u => { u with out := none }, _, modFence_rest .., fun f => modFence_fence b c _ f,
      settle_settled _ c, ?_⟩
    rw [← enterLost_eq]
    unfold Body.linkLost
    simp only [List.mem_cons, List.not_mem_nil, or_false] at h
    rcases h with h | h <;> rw [h]

/-! ### The lane -/

theorem waits_iff (m : Msg) : m.waits = true ↔ m.type ∈ [0x05#8, 0x06#8, 0x07#8, 0x09#8, 0x0A#8] := by
  cases m <;> simp only [Msg.waits, Msg.type] <;> decide

theorem headWaits_iff (k : Link) (m : Msg) : k.headWaits m = true ↔
    (m.type ∈ [0x05#8, 0x06#8, 0x07#8, 0x09#8, 0x0A#8] ∧ 8 ≤ k.inflight.length) ∨ ∃ f ∈ k.inflight, f.seq = k.nextTx := by
  unfold Link.headWaits
  rw [Bool.or_eq_true, Bool.and_eq_true, waits_iff, decide_eq_true_iff, List.any_eq_true]
  simp only [beq_iff_eq]
  rfl

/-- R138: the lane is busy or the link not UP, or there is no head, or it waits. -/
theorem advance_stays {k : Link} (t : Nat) (h : k.state ≠ .up ∨ k.lane ≠ none ∨ k.sendq = [] ∨
    ∃ q qs, k.sendq = q :: qs ∧ k.headWaits q.msg = true) : k.advance t = k := by
  unfold Link.advance
  split
  · rename_i q qs hs hlane hq
    rcases h with h | h | h | ⟨q', qs', hq', hw⟩
    · exact absurd hs h
    · exact absurd hlane h
    · rw [h] at hq
      cases hq
    · obtain ⟨rfl, -⟩ := List.cons.inj (hq'.symm.trans hq)
      exact if_pos hw
  · rfl

theorem advance_goes {k : Link} (t : Nat) {q : QFrame} {qs : List QFrame} (hs : k.state = .up) (hl : k.lane = none)
    (hq : k.sendq = q :: qs) (hw : ¬k.headWaits q.msg = true) : k.advance t = { k with
      sendq := qs, lane := some ⟨k.nextTx, q.msg⟩, nextTx := k.nextTx + 1#4
      inflight := k.inflight ++ if q.msg.type ∈ [0x05#8, 0x06#8, 0x07#8, 0x09#8, 0x0A#8]
        then [⟨k.nextTx, q.msg, q.note, t⟩] else [] } := by
  have hin : (if q.msg.waits then k.inflight ++ [⟨k.nextTx, q.msg, q.note, t⟩] else k.inflight) = k.inflight ++
      if q.msg.type ∈ [0x05#8, 0x06#8, 0x07#8, 0x09#8, 0x0A#8] then [⟨k.nextTx, q.msg, q.note, t⟩] else [] := by
    by_cases h : q.msg.waits = true
    · rw [if_pos h, if_pos ((waits_iff _).1 h)]
    · rw [if_neg h, if_neg (mt (waits_iff _).2 h), List.append_nil]
  rw [← hin]
  unfold Link.advance
  rw [hs, hl, hq]
  exact if_neg hw

theorem modLink_unchanged {b : Body} {c : ChanId} {f : Link → Link} (h : f b.link[c] = b.link[c]) : b.modLink c f = b := by
  unfold Body.modLink
  simp only [h]
  exact congrArg (fun x => { b with link := x }) (Vector.set_getElem_self c.isLt)

/-- Settles O37: the head that waits, and the head that goes. -/
theorem frameSentPutsHeadOnLane : Obligations.FrameSentPutsHeadOnLane := by
  unfold Obligations.FrameSentPutsHeadOnLane
  refine ⟨fun s l => ?events, fun env b c => ⟨fun h => ?_, fun q qs hs hl hq hw => ?_⟩⟩
  case events =>
    rw [exec_frameSent]
    exact ⟨fun hr => onEvent_not_due _ (by rw [hr]; exact fun h => nomatch h.1), fun hr => onEvent_due _ hr rfl⟩
  · have hstay : b.link[c].advance env.items.ackTimeout = b.link[c] := advance_stays _ (h.imp_right (Or.imp_right (Or.imp_right
      fun ⟨q, qs, hq, hw⟩ => ⟨q, qs, hq, (headWaits_iff _ _).2 hw⟩)))
    unfold Body.advanceLane
    rw [modLink_unchanged hstay]
  · have hgo := advance_goes env.items.ackTimeout hs hl hq (mt (headWaits_iff _ _).1 hw)
    exact congrArg (fun x => Body.continueRuns { b with link := b.link.set c x } c) hgo

/-! ### The runs of INSTALL frames -/

/-- The entries of a channel, from a position on, that a run offers. -/
def runEntries (b : Body) (c : ChanId) (p : Nat) (f : Live → Bool) : List EntryNo :=
  (List.finRange 1024).filter fun e => decide (p ≤ e.val) && b.dir[e].live.any fun r => r.key.chan == c && f r

theorem nodup_runEntries (b : Body) (c : ChanId) (p : Nat) (f : Live → Bool) : (runEntries b c p f).Nodup := by
  unfold runEntries
  refine List.Nodup.filter _ ?_
  exact List.nodup_finRange 1024

theorem mem_runEntries {b : Body} {c : ChanId} {p : Nat} {f : Live → Bool} {e : EntryNo} {r : Live}
    (hl : b.dir[e].live = some r) (h : e ∈ runEntries b c p f) : r.key.chan = c ∧ f r = true := by
  unfold runEntries at h
  rw [List.mem_filter, hl] at h
  simp only [Option.any_some, Bool.and_eq_true, beq_iff_eq] at h
  exact h.2.2

/-- The entries of a channel that pass a test, from a position on. -/
theorem entriesWhere_from (b : Body) (c : ChanId) (p : Nat) (f : Live → Bool) :
    ((b.entriesWhere fun r => r.key.chan == c && f r).filter (p ≤ ·.val)) = runEntries b c p f := by
  unfold runEntries
  rw [entriesWhere_eq, List.filter_filter]

theorem runEntries_filter (b : Body) (c : ChanId) (p : Nat) (f : Live → Bool) :
    ((runEntries b c p fun _ => true).filter fun e => b.dir[e].live.any f) = runEntries b c p f := by
  unfold runEntries
  rw [List.filter_filter]
  congr 1
  funext e
  cases b.dir[e].live with
  | none => simp
  | some r => simp [Bool.and_comm, Bool.and_left_comm]

/-- What the frames of a list of entries leave, with the channel's record changed at the end. -/
theorem runSends_modChan (c : ChanId) (resync : Bool) (k : Nat) (fs : List EntryNo) (b : Body) (hn : fs.Nodup)
    (f : Channel → Channel) :
    let b' := (fs.foldl (runSend c resync k) b).modChan c f
    b' = { b with
      dir := b'.dir, link := b'.link
      chan := b.chan.set c (f { b.chan[c] with awaited := b.chan[c].awaited.map (· + k * fs.length) }) } ∧
    (∀ e : EntryNo, b'.dir[e] = if e ∈ fs then sentEntry b.dir[e] else b.dir[e]) ∧
    b'.link = b.link.set c { b.link[c] with
      sendq := b.link[c].sendq ++ fs.filterMap fun e => runFrame resync e b.dir[e] } := by
  obtain ⟨hrest, hdir⟩ := runSends_eq c resync k fs b hn
  generalize hy : fs.foldl (runSend c resync k) b = y at hrest hdir
  have hchan : y.chan = b.chan.set c { b.chan[c] with awaited := b.chan[c].awaited.map (· + k * fs.length) } := by rw [hrest]
  have hlink : y.link = b.link.set c { b.link[c] with
      sendq := b.link[c].sendq ++ fs.filterMap fun e => runFrame resync e b.dir[e] } := by rw [hrest]
  intro b'
  refine ⟨?_, hdir, hlink⟩
  have hset : b'.chan = b.chan.set c (f { b.chan[c] with awaited := b.chan[c].awaited.map (· + k * fs.length) }) := by
    show y.chan.set c (f y.chan[c]) = _
    simp [hchan]
  have hbody : b' = { y with chan := b'.chan } := rfl
  rw [hbody, hset, hrest]

/-- The run of an install phase from its position. -/
theorem continueInstalls_eq {b : Body} {c : ChanId} {p : Nat} (hp : b.chan[c].installPos = some p) (hs : b.link[c].state = .up)
    (ho : b.link[c].overflow = false)
    (hx : ∀ e ∈ runEntries b c p (·.st == .pending), ∀ r, b.dir[e].live = some r → r.repl ≠ none) :
    let es := runEntries b c p (·.st == .pending)
    let room := 160 - b.link[c].sendq.length
    b.continueInstalls c = ((es.take room).foldl (runSend c false 0) b).modChan c fun ch =>
      { ch with installPos := (es.drop room).head?.map (·.val) } := by
  have hfilter := runEntries_filter b c p (·.st == .pending)
  have hrun := runInstalls_eq c (runEntries b c p fun _ => true) b (nodup_runEntries ..) hs ho
    (fun e he r hl => (mem_runEntries hl he).1)
  rw [hfilter] at hrun
  unfold Body.continueInstalls
  rw [hp]
  dsimp only
  rw [entriesWhere_from b c p (·.st == .pending)]
  exact hrun hx

/-- The walk of RESYNC from its position. -/
theorem continueWalk_eq {b : Body} {c : ChanId} {p : Nat} (hp : b.chan[c].walkPos = some p) (hlt : p < 1024)
    (hs : b.link[c].state = .up) (ho : b.link[c].overflow = false)
    (hx : ∀ e ∈ runEntries b c p (fun r => r.st == .pending || r.st == .active || r.st == .refill), ∀ r,
      b.dir[e].live = some r → r.repl ≠ none) :
    let es := runEntries b c p fun r => r.st == .pending || r.st == .active || r.st == .refill
    let room := 160 - b.link[c].sendq.length
    b.continueWalk c = ((es.take room).foldl (runSend c true 1) b).modChan c fun ch =>
      { ch with walkPos := some (((es.drop room).head?.map (·.val)).getD 1024) } := by
  have hfilter := runEntries_filter b c p fun r => r.st == .pending || r.st == .active || r.st == .refill
  have hrun := walkEntries_eq c (runEntries b c p fun _ => true) b (nodup_runEntries ..) hs ho
    (fun e he r hl => (mem_runEntries hl he).1)
  rw [hfilter] at hrun
  have hes := entriesWhere_from b c p fun _ => true
  simp only [Bool.and_true] at hes
  unfold Body.continueWalk
  rw [hp]
  dsimp only
  rw [if_pos hlt, hes]
  exact hrun hx

/-- Settles O38: both runs as the frames that the room allows, and the position after them. -/
theorem installRunsFillTheSendQueue : Obligations.InstallRunsFillTheSendQueue := by
  unfold Obligations.InstallRunsFillTheSendQueue
  refine ⟨fun b c => ⟨?_, ?_, ?others, ?_, ?_⟩, fun b c p hs ho => ?runs⟩
  · intro h
    unfold Body.continueRuns
    rw [h]
  · intro h
    unfold Body.continueRuns
    rw [h]
  case others =>
    intro h
    unfold Body.continueRuns
    split
    · rename_i hs
      exact absurd (by rw [hs]; decide) h
    · rename_i hs
      exact absurd (by rw [hs]; decide) h
    all_goals rfl
  · intro h
    unfold Body.continueInstalls
    rw [h]
  · intro h
    unfold Body.continueWalk
    rcases h with h | h <;> rw [h]
    exact if_neg (by decide)
  case runs =>
    intro room numbered frame sends
    refine ⟨fun hp => ?install, fun hp hlt => ?walk⟩
    case install =>
      intro es hx
      obtain ⟨hrest, hdir, hlink⟩ := runSends_modChan c false 0 (es.take room) b ((nodup_runEntries ..).sublist
        (List.take_sublist ..)) fun ch => { ch with installPos := (es.drop room).head?.map (·.val) }
      simp only [Nat.zero_mul, Nat.add_zero, Option.map_id'] at hrest
      exact ⟨_, continueInstalls_eq hp hs ho hx, hrest, hdir, hlink⟩
    case walk =>
      intro es hx
      obtain ⟨hrest, hdir, hlink⟩ := runSends_modChan c true 1 (es.take room) b ((nodup_runEntries ..).sublist
        (List.take_sublist ..)) fun ch => { ch with walkPos := some (((es.drop room).head?.map (·.val)).getD 1024) }
      simp only [Nat.one_mul] at hrest
      refine ⟨_, continueWalk_eq hp hlt hs ho hx, hrest.trans ?_, hdir, hlink⟩
      cases (es.drop room).head? <;> rfl

end Sys2Proof.Proofs.LinkOut
end

section
/-! SUPPORT. The repair links inward: a frame that arrives, a malformed one, and HELLO. -/

namespace Sys2Proof.Proofs.LinkIn

open Sys2Proof Sys2Proof.Machine Sys2Proof.Laws Sys2Proof.Proofs.LinkOut Sys2Proof.Proofs.Frames

/-! ### The commands -/

section Arms

variable (l : ChanId) (s : State)

theorem exec_frameArrival (bytes : List Byte) :
    exec (.frameArrival l bytes) s = onEvent s true fun env b => b.receive env l bytes := rfl

theorem exec_malformedFrame : exec (.malformedFrame l) s = takeFrame l (fun f => !f.wellFormed)
    (fun _ b _ => some (b.modLink l fun k =>
      { k with counters := { k.counters with malformed := bump k.counters.malformed } })) s := rfl

theorem exec_hello : exec (.hello l) s = takeFrame l (·.is 0x81#8) (fun env b f => b.takeHello env l f) s := rfl

end Arms

/-! ### Well-formed frames -/

/-- R187: the client messages and their lengths. -/
theorem clientLength_iff (ty : Byte) (n : Nat) : clientLength ty = some n ↔
    (ty.toNat, n) ∈ [(0x81, 1), (0x82, 21), (0x83, 2), (0x84, 5), (0x85, 2), (0x86, 6), (0x87, 5), (0x88, 4)] := by
  have hnat : ∀ x : Byte, ty = x ↔ ty.toNat = x.toNat := fun x => BitVec.toNat_inj.symm
  unfold clientLength
  simp only [hnat, List.mem_cons, List.not_mem_nil, or_false, Prod.mk.injEq]
  generalize ty.toNat = m
  show (if m = 0x81 then some 1 else if m = 0x82 then some 21 else if m = 0x83 then some 2 else if m = 0x84 then some 5
    else if m = 0x85 then some 2 else if m = 0x86 then some 6 else if m = 0x87 then some 5 else if m = 0x88 then some 4
    else none) = some n ↔ _
  split_ifs <;> simp <;> omega

theorem at_of_payload {f : RxFrame} {bs : List Byte} (h : f.payload = bs) (n : Nat) : f.at n = bs.getD n 0#8 := by
  subst h
  rfl

theorem num_of_payload {f : RxFrame} {bs : List Byte} (h : f.payload = bs) (at_ width : Nat) :
    f.num at_ width = ofBytes ((bs.drop at_).take width) := by
  subst h
  rfl

/-- A code inside its set, read by place. -/
theorem at_le_iff (f : RxFrame) (n m : Nat) : (f.at n).toNat ≤ m ↔ ∀ x, f.payload[n]? = some x → x.toNat ≤ m := by
  unfold RxFrame.at
  rw [List.getD_eq_getElem?_getD]
  cases f.payload[n]? <;> simp

theorem wellFormed_iff (f : RxFrame) : f.wellFormed = true ↔
    (f.type.toNat, f.payload.length) ∈
      [(0x81, 1), (0x82, 21), (0x83, 2), (0x84, 5), (0x85, 2), (0x86, 6), (0x87, 5), (0x88, 4)] ∧
    (f.type = 0x87#8 → ∀ x, f.payload[4]? = some x → x.toNat ≤ 2) ∧
    (f.type = 0x86#8 → ∀ x, f.payload[2]? = some x → x.toNat ≤ 1) ∧
    (f.type = 0x85#8 → ∀ x, f.payload[1]? = some x → x.toNat ≤ 1) := by
  unfold RxFrame.wellFormed
  rw [decide_eq_true_iff, clientLength_iff]
  simp only [at_le_iff]

theorem is_iff (f : RxFrame) (type : Byte) : f.is type = true ↔ f.wellFormed = true ∧ f.type = type := by
  unfold RxFrame.is
  rw [Bool.and_eq_true, beq_iff_eq]

/-- A HELLO is well formed by its length alone. -/
theorem is_hello_iff (f : RxFrame) : f.is 0x81#8 = true ↔ f.type = 0x81#8 ∧ f.payload.length = 1 := by
  rw [is_iff, wellFormed_iff]
  constructor
  · rintro ⟨⟨h, -⟩, ht⟩
    rw [ht] at h
    exact ⟨ht, by simpa using h⟩
  · rintro ⟨ht, hl⟩
    rw [ht, hl]
    exact ⟨⟨by decide, fun h => absurd h (by decide), fun h => absurd h (by decide), fun h => absurd h (by decide)⟩, rfl⟩

/-! ### Arrival -/

/-- R132: a frame is what its bytes spell, with whatever follows. -/
theorem parseLinkFrame_iff (bytes : List Byte) (f : RxFrame) : parseLinkFrame bytes = some f ↔ f.payload.length ≤ 28 ∧ ∃ sq rest,
    f.seq = sq.truncate 4 ∧ bytes = sealed ([f.type, sq, BitVec.ofNat 8 f.payload.length] ++ f.payload) ++ rest := by
  constructor
  · intro h
    unfold parseLinkFrame at h
    split at h
    · rename_i ty sq len rest
      split at h
      · rename_i hc
        obtain ⟨hlen, hcrc⟩ := hc
        cases h
        have hroom : len.toNat ≤ rest.length := by
          have := congrArg List.length hcrc
          simp [crcBytes, be2] at this
          omega
        have htake : (rest.take len.toNat).length = len.toNat := List.length_take_of_le hroom
        refine ⟨by rw [htake]; exact hlen, sq, (rest.drop len.toNat).drop 2, rfl, ?_⟩
        have hsplit : rest = rest.take len.toNat ++ (crcBytes (ty :: sq :: len :: rest.take len.toNat) ++
            (rest.drop len.toNat).drop 2) := by
          rw [← hcrc, List.take_append_drop, List.take_append_drop]
        rw [htake, BitVec.ofNat_toNat, BitVec.setWidth_eq]
        unfold sealed
        simp only [List.cons_append, List.nil_append, List.append_assoc]
        rw [← hsplit]
      · cases h
    · cases h
  · rintro ⟨hl, sq, rest, hseq, rfl⟩
    rw [parse_sealed _ _ hl rest, ← hseq]

theorem slotBusy_iff (k : Link) (q : BitVec 4) : k.slotBusy q = true ↔ ∃ g ∈ k.rx, g.seq.getLsbD 0 = q.getLsbD 0 := by
  unfold Link.slotBusy
  simp

section Receive

variable {env : Env} {b : Body} {l : ChanId} {bytes : List Byte} {f : RxFrame}

theorem receive_nothing (h : parseLinkFrame bytes = none) : b.receive env l bytes = b.modLink l fun k =>
    { k with counters := { k.counters with
      crcDiscards := if k.counters.crcDiscards < 65535 then k.counters.crcDiscards + 1 else 65535 } } := by
  unfold Body.receive
  rw [h]
  simp only [bump_eq]

theorem receive_training (h : parseLinkFrame bytes = some f) (hs : b.link[l].state = .training) :
    b.receive env l bytes = if f.is 0x81#8 then b.modLink l fun k => { k with rx := [f] } else b := by
  unfold Body.receive
  rw [h]
  dsimp only
  rw [hs]

theorem receive_busy (h : parseLinkFrame bytes = some f) (hs : b.link[l].state = .up) (hb : b.link[l].slotBusy f.seq = true) :
    b.receive env l bytes = b.modLink l fun k => { k with counters := { k.counters with
      overruns := if k.counters.overruns < 65535 then k.counters.overruns + 1 else 65535 } } := by
  unfold Body.receive
  rw [h]
  dsimp only
  rw [hs]
  simp only [bump_eq]
  exact if_pos hb

theorem receive_accepted (h : parseLinkFrame bytes = some f) (hs : b.link[l].state = .up) (hb : ¬b.link[l].slotBusy f.seq = true) :
    b.receive env l bytes = b.acceptFrame env l f := by
  unfold Body.receive
  rw [h]
  dsimp only
  rw [hs]
  exact if_neg hb

theorem modLink_modLink (b : Body) (l : ChanId) (f g : Link → Link) :
    (b.modLink l f).modLink l g = b.modLink l fun k => g (f k) := by
  simp [Body.modLink]

/-- R134: a frame with another number than the expected one is a gap. -/
theorem acceptFrame_gap (h : f.seq ≠ b.link[l].expected) : b.acceptFrame env l f =
    let b2 := b.modLink l fun k => { k with
      rx := k.rx ++ [f], expected := f.seq + 1#4, gap := true
      counters := { k.counters with gaps := if k.counters.gaps < 65535 then k.counters.gaps + 1 else 65535 } }
    if b2.chan[l].state = .test then b2.failChannel env l .linkError else b2 := by
  have hgap : (b.modLink l (·.accept f)).modLink l Link.noteGap = b.modLink l fun k => { k with
      rx := k.rx ++ [f], expected := f.seq + 1#4, gap := true
      counters := { k.counters with gaps := if k.counters.gaps < 65535 then k.counters.gaps + 1 else 65535 } } := by
    rw [modLink_modLink]
    simp only [Link.accept, Link.noteGap, bump_eq]
  unfold Body.acceptFrame
  dsimp only
  rw [if_neg h, hgap]

end Receive

theorem arrival_eq {s : State} (l : ChanId) (bytes : List Byte) (hr : s.running = true) {b : Body}
    (h : s.body.receive s.env l bytes = b) : exec (.frameArrival l bytes) s = .next { s with body := b.finish s.env } := by
  subst h
  rw [exec_frameArrival]
  exact onEvent_due _ hr rfl

/-- Settles O39: the parse both ways, then the checks by link state, slot and number. -/
theorem arrivingFrameIsChecked : Obligations.ArrivingFrameIsChecked := by
  unfold Obligations.ArrivingFrameIsChecked
  refine ⟨parseLinkFrame_iff, fun s l bytes => ?_⟩
  intro k left count
  refine ⟨fun hr => ?_, fun hr hp => arrival_eq l bytes hr (receive_nothing hp), fun f hr hp => ⟨fun hs ht hl => ?_, fun hs h => ?_,
    fun hs hb => arrival_eq l bytes hr (receive_busy hp hs ((slotBusy_iff _ _).2 hb)), fun hs hb => ?_⟩⟩
  · rw [exec_frameArrival]
    exact onEvent_not_due _ (by rw [hr]; exact fun h => nomatch h.1)
  · exact arrival_eq l bytes hr ((receive_training hp hs).trans (if_pos ((is_hello_iff f).2 ⟨ht, hl⟩)))
  · have hnot : ¬f.is 0x81#8 = true := fun hh => h.elim (fun hn => hn ((is_hello_iff f).1 hh).1)
      fun hn => hn ((is_hello_iff f).1 hh).2
    have hset : { s.body with link := s.body.link.set l k } = s.body := modLink_unchanged (f := fun x => x) rfl
    exact arrival_eq l bytes hr ((receive_training hp hs).trans ((if_neg hnot).trans hset.symm))
  · have hbusy : ¬s.body.link[l].slotBusy f.seq = true := fun hh =>
      let ⟨g, hg, he⟩ := (slotBusy_iff _ _).1 hh
      hb g hg he
    have hacc := receive_accepted (env := s.env) hp hs hbusy
    refine ⟨fun he => arrival_eq l bytes hr (hacc.trans (if_pos he)), fun he => ?_⟩
    intro k'
    have hgap := hacc.trans (acceptFrame_gap he)
    exact ⟨fun hst => arrival_eq l bytes hr (hgap.trans (if_neg hst)), fun hst => arrival_eq l bytes hr (hgap.trans (if_pos hst))⟩

/-! ### Malformed frames -/

/-- Settles O40: the form as a list of types and lengths, and the frame taken. -/
theorem malformedFrameIsCounted : Obligations.MalformedFrameIsCounted := by
  unfold Obligations.MalformedFrameIsCounted
  refine ⟨wellFormed_iff, is_iff, fun s l => ?_⟩
  rw [exec_malformedFrame]
  refine ⟨fun f hf hw => (takeFrame_acts hf (by rw [hw]; rfl) rfl).trans ?_, fun h => takeFrame_idle fun f hf => by rw [h f hf]; rfl⟩
  unfold Body.popFrame
  rw [modLink_modLink]
  simp only [bump_eq]
  rfl

/-! ### HELLO -/

theorem popFrame_state (b : Body) (l : ChanId) : (b.popFrame l).link[l].state = b.link[l].state := by
  unfold Body.popFrame
  rw [modLink_same]

section Hello

variable (env : Env) {b : Body} {l : ChanId} {f : RxFrame} {v : Byte}

theorem takeHello_later (h : b.link[l].state ≠ .training) : b.takeHello env l f = none := if_neg h

/-- R128: another version is recorded, and nothing else is done. -/
theorem takeHello_other (h : b.link[l].state = .training) (hf : f.at 0 = v) (hv : v ≠ 1#8) :
    b.takeHello env l f = some (b.modLink l fun k => { k with lastHello := some v }) := by
  unfold Body.takeHello
  rw [if_pos h, hf]
  dsimp only
  rw [if_neg hv]

/-- R128: with version 1 the link reaches UP. -/
theorem takeHello_up (h : b.link[l].state = .training) (hf : f.at 0 = 1#8) :
    b.takeHello env l f = some (Body.linkReachedUp env (b.modLink l fun k => { k with
      lastHello := some 1#8, state := .up, training := none, nextTx := 0#4, expected := f.seq + 1#4
      counters := { k.counters with
        timesUp := if k.counters.timesUp < 65535 then k.counters.timesUp + 1 else 65535 } }) l) := by
  unfold Body.takeHello
  rw [if_pos h, hf]
  dsimp only
  rw [if_pos rfl, modLink_modLink]
  simp only [Link.reachUp, bump_eq]

theorem linkReachedUp_waiting (hs : b.chan[l].state = .test) (hw : b.chan[l].linkWait ≠ none) :
    b.linkReachedUp env l = b.sendDiscover env l := by
  unfold Body.linkReachedUp
  rw [hs]
  exact if_pos (Option.isSome_iff_ne_none.2 hw)

theorem linkReachedUp_same (h : b.chan[l].state ∉ [.down, .test, .lost] ∨ (b.chan[l].state = .test ∧ b.chan[l].linkWait = none)) :
    b.linkReachedUp env l = b := by
  have hne : ∀ st ∈ [ChanState.down, .test, .lost], st ≠ .test → b.chan[l].state ≠ st := fun st hst hn hs =>
    h.elim (fun h => h (hs ▸ hst)) fun h => hn (hs.symm.trans h.1)
  unfold Body.linkReachedUp
  split
  · rename_i hs
    exact absurd hs (hne _ (by decide) (by decide))
  · rename_i hs
    have hw := (h.resolve_left fun h => h (by rw [hs]; decide)).2
    exact if_neg (by rw [hw]; exact Bool.false_ne_true)
  · rename_i hs
    exact absurd hs (hne _ (by decide) (by decide))
  all_goals rfl

end Hello

/-- Settles O41: the HELLO by the link's state and version, and the channel by its state. -/
theorem helloBringsLinkUp : Obligations.HelloBringsLinkUp := by
  unfold Obligations.HelloBringsLinkUp
  refine ⟨fun s l f hf hp => ?hello, fun s l h => by rw [exec_hello]; exact takeFrame_idle h, fun env b c => ⟨?_, ?_, ?_, ?_⟩⟩
  case hello =>
    rw [exec_hello]
    have hstate := popFrame_state s.body l
    refine ⟨fun hs => takeFrame_ignores hf hp (takeHello_later _ (by rw [hstate]; exact hs)), fun hs v hv => ?_⟩
    have hat : f.at 0 = v := at_of_payload hv _
    have hs' := hstate.trans hs
    refine ⟨fun hne => (takeFrame_acts hf hp (takeHello_other _ hs' hat hne)).trans ?_, fun he =>
      (takeFrame_acts hf hp (takeHello_up _ hs' (hat.trans he))).trans ?_⟩
    · unfold Body.popFrame
      rw [modLink_modLink]
      rfl
    · unfold Body.popFrame
      rw [modLink_modLink]
      rfl
  · intro h
    unfold Body.linkReachedUp
    rw [h]
    rfl
  · exact fun h hw => linkReachedUp_waiting env h hw
  · intro h
    unfold Body.linkReachedUp
    rw [h]
    rfl
  · exact fun h => linkReachedUp_same env h

end Sys2Proof.Proofs.LinkIn
end

section
/-! SUPPORT. In-service repair: the end of a fence by its DRAINED or its timer, the repair trigger, and the timers of a run. -/

namespace Sys2Proof.Proofs.InService

open Sys2Proof Sys2Proof.Machine Sys2Proof.Laws Sys2Proof.Proofs.LinkIn Sys2Proof.Proofs.Frames Sys2Proof.Proofs.Inspect Sys2Proof.Proofs.EntryWay
open Sys2Proof.Proofs.LinkOut

/-! ### The commands -/

section Arms

variable (c : ChanId) (s : State)

theorem exec_linkWaitExpiry : exec (.linkWaitExpiry c) s =
    onEvent s (s.body.chan[c].state == .test && s.body.chan[c].linkWait == some 0) fun env b => b.failChannel env c .absent := rfl

theorem exec_geometryWaitExpiry : exec (.geometryWaitExpiry c) s =
    onEvent s (s.body.chan[c].state == .test && s.body.chan[c].geomWait == some 0) fun env b => b.failChannel env c .geometry := rfl

theorem exec_stepTimerExpiry : exec (.stepTimerExpiry c) s =
    onEvent s (s.body.chan[c].state == .test && s.body.chan[c].stepTimer == some 0) fun env b =>
      b.failChannel env c .stepTimeout := rfl

theorem exec_budgetExpiry : exec (.budgetExpiry c) s = onEvent s (s.body.meetsBudget s.env c) fun _ b => b := rfl

theorem exec_fenceTimerExpiry : exec (.fenceTimerExpiry c) s = execFenceTimerExpiry c s := rfl

theorem exec_drained : exec (.drained c) s =
    takeFrame c (·.is 0x86#8) (fun env b f => (b.drainedFence c f).map (b.drain env c)) s := rfl

end Arms

/-! ### The timers of a run -/

/-- An expiry of a timer of a channel in TEST is due exactly when the part runs and the timer has run out. -/
theorem testTimer_due {s : State} {c : ChanId} {t : Timer} {f : Env → Body → Body} :
    ((s.running = true ∧ s.body.chan[c].state = .test) → t = some 0 →
      onEvent s (s.body.chan[c].state == .test && t == some 0) f = .next (s.withBody (f s.env s.body))) ∧
    (¬((s.running = true ∧ s.body.chan[c].state = .test) ∧ t = some 0) →
      onEvent s (s.body.chan[c].state == .test && t == some 0) f = .next s) := by
  have hdue : (s.body.chan[c].state == .test && t == some 0) = true ↔ s.body.chan[c].state = .test ∧ t = some 0 := by
    rw [Bool.and_eq_true, beq_iff_eq, beq_iff_eq]
  exact ⟨fun ⟨hr, hs⟩ ht => onEvent_due f hr (hdue.2 ⟨hs, ht⟩), fun h => onEvent_not_due f (by rw [hdue, ← and_assoc]; exact h)⟩

/-- Settles O51: one rule for the three timers of TEST, and the budget. -/
theorem runTimersFailTheChannel : Obligations.RunTimersFailTheChannel := by
  unfold Obligations.RunTimersFailTheChannel
  intro s c
  rw [exec_linkWaitExpiry, exec_geometryWaitExpiry, exec_stepTimerExpiry, exec_budgetExpiry]
  refine ⟨testTimer_due.1, testTimer_due.1, testTimer_due.1, fun h hb => onEvent_due _ h.1 (meetsBudget_iff.2 ⟨h.2, hb⟩),
    testTimer_due.2, testTimer_due.2, testTimer_due.2, fun h => onEvent_not_due _ ?_, fun t ht => ?_⟩
  · rw [meetsBudget_iff, ← and_assoc]
    exact h
  · unfold Body.elapsed
    rw [show s.body.chan[c].runStart = some t from ht]
    rfl

/-! ### Fences -/

theorem fenceOf_out {b : Body} {c : ChanId} {f : Fence} (h : (b.fenceOf c).out = some f) :
    ∃ k : Fin 8, k.val = c.val ∧ b.fence[k].out = some f := by
  by_cases hc : c.val < 8
  · rw [fenceOf_buffer b (k := ⟨c.val, hc⟩) rfl] at h
    exact ⟨_, rfl, h⟩
  · rw [fenceOf_table b (Nat.le_of_not_lt hc)] at h
    cases h

theorem dueFence_none {b : Body} {c : ChanId} (h : ∀ k : Fin 8, k.val = c.val → ∀ f, b.fence[k].out = some f → f.timer ≠ 0) :
    b.dueFence c = none := by
  unfold Body.dueFence
  rw [Option.filter_eq_none_iff]
  intro f hf ht
  obtain ⟨k, hk, hout⟩ := fenceOf_out hf
  exact h k hk f hout (beq_iff_eq.1 ht)

theorem dueFence_some {b : Body} {c : ChanId} {k : Fin 8} {f : Fence} (hk : k.val = c.val) (hf : b.fence[k].out = some f)
    (ht : f.timer = 0) : b.dueFence c = some f := by
  unfold Body.dueFence
  rw [fenceOf_buffer b hk, hf, Option.filter_some, if_pos (beq_iff_eq.2 ht)]

theorem fenceExpired_eq {env : Env} {b : Body} {c : ChanId} {k : Fin 8} (hk : k.val = c.val) (f : Fence) :
    b.fenceExpired env c f =
      let b0 := b.offer c (.lift f.serial) (.lift f.serial)
      let b1 := (if f.purpose = .install then b0.freeEntry f.entry else b0.activate f.entry).raise .fenceTimeout
        (.key ⟨c, f.bank, f.row⟩)
      Body.serveHead env { b1 with fence := b1.fence.set k { b1.fence[k] with out := none } } c := by
  unfold Body.fenceExpired
  dsimp only
  rw [modFence_buffer _ hk]
  cases f.purpose <;> rfl

/-- Settles O52: the fence that is due, with its entry freed or ACTIVE again. -/
theorem fenceTimeoutLiftsTheFence : Obligations.FenceTimeoutLiftsTheFence := by
  unfold Obligations.FenceTimeoutLiftsTheFence
  refine ⟨fun s c k f hk hr hf ht => ?_, fun s c h => ?_, fun b e r h => activate_eq h, fun b e r h => freeEntry_eq h⟩
  · rw [exec_fenceTimerExpiry]
    unfold execFenceTimerExpiry
    rw [dueFence_some hk hf ht]
    refine (onEvent_due _ hr rfl).trans ?_
    exact congrArg (fun b => Host.Outcome.next (s.withBody b)) (fenceExpired_eq hk f)
  · rw [exec_fenceTimerExpiry]
    unfold execFenceTimerExpiry
    rcases h with h | h
    · split
      · exact onEvent_not_due _ (by rw [h]; exact fun hh => nomatch hh.1)
      · rfl
    · rw [dueFence_none h]

/-! ### DRAINED -/

section Drained

variable {b : Body} {c : ChanId} {f : RxFrame} {serial scope : Byte} {bank row : Nat}

/-- The fence that a DRAINED with these fields answers (R110). -/
def Agrees (serial scope : Byte) (bank row : Nat) (o : Fence) : Prop :=
  o.serial = serial ∧ o.bank = bank ∧ o.row = if scope = 0#8 then some row else none

theorem agrees_iff (hb : FitsBytes 1 bank) (hr : FitsBytes 3 row) (hf : f.payload = serial :: (be1 bank ++ [scope] ++ be3 row))
    (o : Fence) : (o.serial == f.at 0 && o.bank == f.num 1 1 && o.row == f.drainedRow) = true ↔ Agrees serial scope bank row o := by
  have h0 : f.at 0 = serial := at_of_payload hf _
  have h1 : f.num 1 1 = bank := (num_of_payload hf _ _).trans (ofBytes_be1 hb)
  have h2 : f.at 2 = scope := at_of_payload hf _
  have h3 : f.num 3 3 = row := (num_of_payload hf _ _).trans (ofBytes_be3 hr)
  unfold RxFrame.drainedRow Agrees
  rw [h0, h1, h2, h3, Bool.and_eq_true, Bool.and_eq_true, beq_iff_eq, beq_iff_eq, beq_iff_eq, and_assoc]

theorem drainedFence_none (hb : FitsBytes 1 bank) (hr : FitsBytes 3 row)
    (hf : f.payload = serial :: (be1 bank ++ [scope] ++ be3 row))
    (h : b.chan[c].state ≠ .service ∨ ∀ k : Fin 8, k.val = c.val → ∀ o, b.fence[k].out = some o → ¬Agrees serial scope bank row o) :
    b.drainedFence c f = none := by
  unfold Body.drainedFence
  rcases h with h | h
  · exact if_neg h
  · split
    · rw [Option.filter_eq_none_iff]
      intro o ho ha
      obtain ⟨k, hk, hout⟩ := fenceOf_out ho
      exact h k hk o hout ((agrees_iff hb hr hf o).1 ha)
    · rfl

theorem drainedFence_some (hb : FitsBytes 1 bank) (hr : FitsBytes 3 row)
    (hf : f.payload = serial :: (be1 bank ++ [scope] ++ be3 row)) {k : Fin 8} {o : Fence} (hk : k.val = c.val)
    (hs : b.chan[c].state = .service) (ho : b.fence[k].out = some o) (ha : Agrees serial scope bank row o) :
    b.drainedFence c f = some o := by
  unfold Body.drainedFence
  rw [if_pos hs, fenceOf_buffer b hk, ho, Option.filter_some, if_pos ((agrees_iff hb hr hf o).2 ha)]

end Drained

theorem drain_eq {env : Env} {b : Body} {c : ChanId} {k : Fin 8} (hk : k.val = c.val) (o : Fence) : b.drain env c o =
    let b1 := { b with fence := b.fence.set k { b.fence[k] with out := none } }
    Body.serveHead env (if o.purpose = .install then b1.sendInstall o.entry false else b1.sendRemove o.entry) c := by
  unfold Body.drain
  rw [modFence_buffer b hk]
  cases o.purpose <;> rfl

/-- Settles O47: the fence that agrees, and the head served. -/
theorem drainedEndsTheFence : Obligations.DrainedEndsTheFence := by
  unfold Obligations.DrainedEndsTheFence
  refine ⟨fun s l f serial scope bank row hh hp hb hr hf => ?_, fun s l h => by rw [exec_drained]; exact takeFrame_idle h,
    fun env b c => ⟨serveHead_idle, fun f e es r hf hs hu hl => serveHead_serves hf hs hu hl⟩,
    fun b e r hl => ⟨fun x resync hx => sendInstall_eq hl hx resync, sendRemove_eq hl⟩⟩
  rw [exec_drained]
  refine ⟨fun h => takeFrame_ignores hh hp (congrArg (Option.map _) (drainedFence_none hb hr hf h)), fun k o hk hs ho ha => ?_⟩
  have hdrain : ((s.body.popFrame l).drainedFence l f).map ((s.body.popFrame l).drain s.env l) =
      some ((s.body.popFrame l).drain s.env l o) := congrArg (Option.map _) (drainedFence_some hb hr hf hk hs ho ha)
  exact takeFrame_acts hh hp (hdrain.trans (congrArg some (drain_eq hk o)))

/-! ### The repair trigger -/

section Trigger

variable {env : Env} {sweep : Bool} {b : Body} {k : Key} {score : Nat}

theorem trigger_silent (h : ¬(env.items.repairThreshold ≤ score ∧ b.chan[k.chan].state = .service)) :
    b.trigger env sweep k score = b := if_pos (by
  rw [not_and_or, Nat.not_le] at h
  exact h)

theorem trigger_new (h : env.items.repairThreshold ≤ score ∧ b.chan[k.chan].state = .service) (hk : b.findKey k = none) :
    b.trigger env sweep k score = b.newRepair env sweep k := by
  unfold Body.trigger
  rw [if_neg (by rw [not_or, Nat.not_lt, ne_eq, not_not]; exact h), hk]

theorem trigger_entry (h : env.items.repairThreshold ≤ score ∧ b.chan[k.chan].state = .service) {e : EntryNo} {r : Live}
    (hk : b.findKey k = some e) (hl : b.dir[e].live = some r) :
    ((r.st = .active ∧ ∃ y, r.repl = some (.target y)) → b.trigger env sweep k score = b.retargetRepair env sweep k e) ∧
    (¬(r.st = .active ∧ ∃ y, r.repl = some (.target y)) → b.trigger env sweep k score = b) := by
  unfold Body.trigger
  rw [if_neg (by rw [not_or, Nat.not_lt, ne_eq, not_not]; exact h), hk]
  dsimp only
  rw [hl]
  dsimp only
  constructor
  · rintro ⟨hs, y, hy⟩
    rw [hs, hy]
  · intro hn
    split
    · rename_i hs hy
      exact absurd ⟨hs, _, hy⟩ hn
    · rfl

theorem newRepair_full (h : b.queueFull k.chan = true) : b.newRepair env sweep k = b := if_pos h

theorem retargetRepair_full (h : b.queueFull k.chan = true) (e : EntryNo) : b.retargetRepair env sweep k e = b := if_pos h

/-- R56: no FREE entry or no target. -/
theorem newRepair_unrepairable (hq : ¬b.queueFull k.chan = true) (h : b.lowestFree = none ∨ b.choose env k.chan k.bank = none) :
    b.newRepair env sweep k = b.raise .unrepairable (.key k) := by
  unfold Body.newRepair
  rw [if_neg hq]
  rcases h with h | h
  · rw [h]
  · cases b.lowestFree with
    | none => rfl
    | some e =>
      dsimp only
      rw [h]

theorem newRepair_makes (hq : ¬b.queueFull k.chan = true) {e : EntryNo} {x : Replacement} (he : b.lowestFree = some e)
    (hx : b.choose env k.chan k.bank = some x) :
    b.newRepair env sweep k = (b.createRow e k x .score).onward env sweep k.chan e := by
  unfold Body.newRepair
  rw [if_neg hq, he]
  dsimp only
  rw [hx]

theorem retargetRepair_none (hq : ¬b.queueFull k.chan = true) {e : EntryNo} (h : b.retarget env e none = none) :
    b.retargetRepair env sweep k e = b.raise .unrepairable (.key k) := by
  unfold Body.retargetRepair
  rw [if_neg hq, h]

theorem retargetRepair_some (hq : ¬b.queueFull k.chan = true) {e : EntryNo} {b1 : Body} (h : b.retarget env e none = some b1) :
    b.retargetRepair env sweep k e = b1.onward env sweep k.chan e := by
  unfold Body.retargetRepair
  rw [if_neg hq, h]

/-- A full fence queue ends the trigger in silence (R56, R57). -/
theorem trigger_full (h : b.queueFull k.chan = true) : b.trigger env sweep k score = b := by
  by_cases ha : env.items.repairThreshold ≤ score ∧ b.chan[k.chan].state = .service
  · cases hk : b.findKey k with
    | none => rw [trigger_new ha hk, newRepair_full h]
    | some e =>
      obtain ⟨⟨r, hl, -⟩, -⟩ := (findEntry_iff ..).1 hk
      obtain ⟨hacts, hnot⟩ := trigger_entry (sweep := sweep) ha hk hl
      by_cases hr : r.st = .active ∧ ∃ y, r.repl = some (.target y)
      · rw [hacts hr, retargetRepair_full h]
      · exact hnot hr
  · exact trigger_silent ha

end Trigger

theorem sweepVisit_eq (env : Env) (c : ChanId) : Body.sweepVisit env c = fun (x : Body) (i : WatchNo) => match x.watch[i] with
    | none => x
    | some w => if w.chan = c ∧ x.excluded c w.bank = false
        then x.trigger env true ⟨c, w.bank, some w.row⟩ w.score else x := by
  funext x i
  unfold Body.sweepVisit
  cases x.watch[i] <;> rfl

/-- Settles O49: the trigger by entry found, and the sweep visit by visit. -/
theorem triggerRepairsRows : Obligations.TriggerRepairsRows := by
  unfold Obligations.TriggerRepairsRows
  refine ⟨fun env sweep b k score => ?_, fun env b c e => ⟨fun hc sweep => onward_table hc env sweep e, fun f hf =>
    ⟨onward_buffer hf env true e, onward_buffer hf env false e⟩⟩, fun env b c => ?_⟩
  · intro c asks full t unrepairable
    refine ⟨fun h => h.elim trigger_silent fun h => trigger_full ((queueFull_iff ..).2 h), fun ha hf => ⟨fun hk => ?_, ?_⟩⟩
    all_goals have hq : ¬b.queueFull k.chan = true := mt (queueFull_iff ..).1 hf
    · have ht := trigger_new (sweep := sweep) ha (findKey_none.2 hk)
      refine ⟨fun h => ht.trans (newRepair_unrepairable hq (h.imp_left (lowestFree_none b).2)), fun e x he hx => ?_⟩
      exact ht.trans (newRepair_makes hq ((lowestFree_iff b e).2 he) hx)
    · intro e r hl hr hu acts
      obtain ⟨hacts, hnot⟩ := trigger_entry (sweep := sweep) ha (findKey_some hl hr fun d q hd hq => hu d q hd (hq.trans hr)) hl
      exact ⟨hnot, fun h hn => (hacts h).trans (retargetRepair_none hq hn), fun b1 h hb =>
        (hacts h).trans (retargetRepair_some hq hb)⟩
  · unfold Body.enterService Body.sweep
    rw [sweepVisit_eq]
    rfl

end Sys2Proof.Proofs.InService
end

section
/-! SUPPORT. The watch table: reports, the lowest record of a full table, the decay, and the answer to a QUERY. -/

namespace Sys2Proof.Proofs.Watching

open Sys2Proof Sys2Proof.Machine Sys2Proof.Laws Sys2Proof.Proofs.LinkIn Sys2Proof.Proofs.Frames Sys2Proof.Proofs.Keeping

/-! ### The commands -/

section Arms

variable (l : ChanId) (s : State)

theorem exec_report : exec (.report l) s = takeFrame l (·.is 0x87#8) (fun env b f => b.takeReport env l f) s := rfl

theorem exec_query : exec (.query l) s = takeFrame l (·.is 0x88#8)
    (fun _ b f => some (b.offer l (.rowStatus (f.num 0 1) (f.num 1 3) (b.rowStatus l (f.num 0 1) (f.num 1 3))) .none)) s := rfl

theorem exec_decay : exec .decay s = if s.running && s.decayTimer == 0 then
    .next { s with body := s.body.decay, decayTimer := s.items.decayPeriod * 1000 } else .next s := rfl

end Arms

/-! ### Finding a record -/

/-- The record of a row, when it is the only one for it. -/
theorem findWatch_unique {b : Body} {c : ChanId} {bank row : Nat} {i : WatchNo} {w : Watch}
    (hw : b.watch[i] = some w ∧ w.chan = c ∧ w.bank = bank ∧ w.row = row)
    (hu : ∀ (j : WatchNo) (v : Watch), b.watch[j] = some v ∧ v.chan = c ∧ v.bank = bank ∧ v.row = row → j = i) :
    b.findWatch c bank row = some i := by
  cases hf : b.findWatch c bank row with
  | none =>
    have := findWatch_none hf i w hw.1
    rw [(isFor_iff ..).2 hw.2] at this
    cases this
  | some j =>
    obtain ⟨v, hv, hfor⟩ := findWatch_some hf
    rw [hu j v ⟨hv, (isFor_iff ..).1 hfor⟩]

theorem findWatch_absent {b : Body} {c : ChanId} {bank row : Nat}
    (h : ∀ (i : WatchNo) (w : Watch), ¬(b.watch[i] = some w ∧ w.chan = c ∧ w.bank = bank ∧ w.row = row)) : b.findWatch c bank row = none := by
  cases hf : b.findWatch c bank row with
  | none => rfl
  | some j =>
    obtain ⟨v, hv, hfor⟩ := findWatch_some hf
    exact absurd ⟨hv, (isFor_iff ..).1 hfor⟩ (h j v)

theorem freeWatch_some {b : Body} {i : WatchNo} (h : b.watch[i] = none) (hl : ∀ j : WatchNo, j < i → b.watch[j] ≠ none) :
    b.freeWatch = some i := by
  have : (b.numberedWatch.find? fun x => x.2.isNone) = some (i, none) :=
    (find_zip_some _ _ _ _).2 ⟨h, rfl, fun j hj => Option.isNone_eq_false_iff.2 (Option.isSome_iff_ne_none.2 (hl j hj))⟩
  unfold Body.freeWatch
  rw [this]
  rfl

theorem freeWatch_none {b : Body} (h : ∀ j : WatchNo, b.watch[j] ≠ none) : b.freeWatch = none := by
  have : (b.numberedWatch.find? fun x => x.2.isNone) = none := (find_zip_none _ _).2 fun j =>
    Option.isNone_eq_false_iff.2 (Option.isSome_iff_ne_none.2 (h j))
  unfold Body.freeWatch
  rw [this]
  rfl

/-! ### The lowest record -/

/-- One visit of the search for the lowest score (R51). -/
def lower (best : Option (WatchNo × Watch)) (x : WatchNo × Option Watch) : Option (WatchNo × Watch) :=
  match x.2, best with
  | some w, none => some (x.1, w)
  | some w, some (i, v) => if w.score < v.score then some (x.1, w) else some (i, v)
  | none, _ => best

theorem lowestWatch_eq (b : Body) : b.lowestWatch = b.numberedWatch.foldl lower none := rfl

/-- No later record with a score at least as high takes the place of the lowest one. -/
theorem foldl_lower_stays {i : WatchNo} {w : Watch} : ∀ (xs : List (WatchNo × Option Watch)),
    (∀ x ∈ xs, ∀ v, x.2 = some v → w.score ≤ v.score) → xs.foldl lower (some (i, w)) = some (i, w)
  | [], _ => rfl
  | ⟨j, o⟩ :: xs, h => by
    have hstep : lower (some (i, w)) (j, o) = some (i, w) := by
      cases o with
      | none => rfl
      | some v => exact if_neg (Nat.not_lt.2 (h (j, some v) (List.mem_cons_self ..) v rfl))
    rw [List.foldl_cons, hstep]
    exact foldl_lower_stays xs fun x hx => h x (List.mem_cons_of_mem _ hx)

/-- The lowest one of some records is one of them. -/
theorem foldl_lower_mem : ∀ (xs : List (WatchNo × Option Watch)) (best : Option (WatchNo × Watch)) {y : WatchNo × Watch},
    xs.foldl lower best = some y → best = some y ∨ (y.1, some y.2) ∈ xs
  | [], _, _, h => .inl h
  | ⟨j, o⟩ :: xs, best, y, h => by
    rw [List.foldl_cons] at h
    rcases foldl_lower_mem xs _ h with h | h
    · cases o with
      | none => exact .inl h
      | some v =>
        cases best with
        | none =>
          obtain rfl : (j, v) = y := Option.some.inj h
          exact .inr (List.mem_cons_self ..)
        | some z =>
          by_cases hlt : v.score < z.2.score
          · obtain rfl : (j, v) = y := Option.some.inj ((if_pos hlt).symm.trans h)
            exact .inr (List.mem_cons_self ..)
          · exact .inl ((if_neg hlt).symm.trans h)
    · exact .inr (List.mem_cons_of_mem _ h)

/-- R51: the record of lowest score, of lowest index among equals. -/
theorem lowestWatch_some {b : Body} {i : WatchNo} {w : Watch} (hw : b.watch[i] = some w)
    (hmin : ∀ (j : WatchNo) (v : Watch), b.watch[j] = some v → w.score ≤ v.score ∧ (j < i → w.score < v.score)) :
    b.lowestWatch = some (i, w) := by
  have hmem : (i, some w) ∈ b.numberedWatch := (mem_zip_finRange ..).2 hw
  obtain ⟨before, after, hsplit⟩ := List.append_of_mem hmem
  have hwatch : ∀ x ∈ b.numberedWatch, b.watch[x.1] = x.2 := fun x hx => (mem_zip_finRange ..).1 hx
  have hsorted : b.numberedWatch.Pairwise fun x y => x.1 < y.1 := zip_finRange_sorted b.watch
  rw [hsplit] at hsorted hwatch
  have hbefore : ∀ x ∈ before, x.1 < i := fun x hx =>
    (List.pairwise_append.1 hsorted).2.2 x hx (i, some w) (List.mem_cons_self ..)
  have htake : lower (before.foldl lower none) (i, some w) = some (i, w) := by
    cases hb : before.foldl lower none with
    | none => rfl
    | some y =>
      obtain h | h := foldl_lower_mem before none hb
      · cases h
      · have hy := hwatch _ (List.mem_append_left _ h)
        exact if_pos ((hmin y.1 y.2 hy).2 (hbefore _ h))
  rw [lowestWatch_eq, hsplit, List.foldl_append, List.foldl_cons, htake]
  exact foldl_lower_stays after fun x hx v hv =>
    (hmin x.1 v ((hwatch x (List.mem_append_right _ (List.mem_cons_of_mem _ hx))).trans hv)).1

/-! ### Reports -/

/-- The kinds of R48 by their codes. -/
theorem reportKind_weight (kind : Byte) : (reportKind kind).weight = if kind = 0#8 then 8 else if kind = 1#8 then 32 else 512 := by
  unfold reportKind
  split
  · rfl
  · split <;> rfl

theorem reportKind_ue {kind : Byte} (h : kind.toNat ≤ 2) : reportKind kind = .ue ↔ kind = 2#8 := by
  unfold reportKind
  split
  · rename_i h0
    simp [h0]
  · split
    · rename_i h1
      simp [h1]
    · rename_i h0 h1
      refine ⟨fun _ => ?_, fun _ => rfl⟩
      bv_omega

/-- A record made from a report (R50). -/
theorem fresh_eq (l : ChanId) (bank row : Nat) {kind : Byte} (h : kind.toNat ≤ 2) : Watch.fresh l bank row (reportKind kind) =
    ⟨l, bank, row, if kind = 0#8 then 8 else if kind = 1#8 then 32 else 512, if decide (kind = 2#8) then 0 else 1,
      decide (kind = 2#8)⟩ := by
  have hue : (reportKind kind == .ue) = decide (kind = 2#8) := by
    rw [Bool.eq_iff_iff, beq_iff_eq, decide_eq_true_iff]
    exact reportKind_ue h
  unfold Watch.fresh
  rw [reportKind_weight, hue]
  simp only [reportKind_ue h, decide_eq_true_eq]

/-- A record that a report is added to (R49). -/
theorem add_eq (w : Watch) {kind : Byte} (h : kind.toNat ≤ 2) {weight : Nat}
    (hweight : (reportKind kind).weight = weight) : w.add (reportKind kind) =
    { w with
      score := if w.score + weight > 1023 then 1023 else w.score + weight
      correctable := if decide (kind = 2#8) then w.correctable else if w.correctable < 255 then w.correctable + 1 else 255
      ueSeen := w.ueSeen || decide (kind = 2#8) } := by
  have hue : (reportKind kind == .ue) = decide (kind = 2#8) := by
    rw [Bool.eq_iff_iff, beq_iff_eq, decide_eq_true_iff]
    exact reportKind_ue h
  have hscore : min (w.score + weight) Config.scoreMax = if w.score + weight > 1023 then 1023 else w.score + weight := by
    unfold Config.scoreMax
    split <;> omega
  have hcount : min (w.correctable + 1) 255 = if w.correctable < 255 then w.correctable + 1 else 255 := by split <;> omega
  unfold Watch.add
  rw [hweight, hue, hscore, hcount]
  simp only [reportKind_ue h, decide_eq_true_eq]

theorem reportable_iff (b : Body) (c : ChanId) (bank row : Nat) : b.reportable c bank row = true ↔
    b.chan[c].state ∈ [.service, .resync, .ready] ∧ (∃ v, b.inv[c] = some v ∧ v.geo.ordinary bank row = true) ∧
      ¬BankExcluded b c bank := by
  have hex : b.excluded c bank = false ↔ ¬BankExcluded b c bank := by
    rw [← excluded_iff, Bool.not_eq_true]
  unfold Body.reportable
  rw [Bool.and_eq_true, Bool.and_eq_true, Bool.not_eq_true', hex, Option.any_eq_true, and_assoc]
  simp [or_assoc]

section AddReport

variable {env : Env} {b : Body} {c : ChanId} {bank row : Nat} {k : ReportKind}

theorem addReport_adds {i : WatchNo} {w : Watch} (hf : b.findWatch c bank row = some i) (hw : b.watch[i] = some w) :
    b.addReport env c bank row k = b.score env i (w.add k) := by
  unfold Body.addReport
  rw [hf]
  dsimp only
  rw [hw]

theorem addReport_fills {i : WatchNo} (hf : b.findWatch c bank row = none) (hi : b.freeWatch = some i) :
    b.addReport env c bank row k = b.score env i (Watch.fresh c bank row k) := by
  unfold Body.addReport
  rw [hf]
  dsimp only
  rw [hi]

theorem addReport_full (hf : b.findWatch c bank row = none) (hi : b.freeWatch = none) {i : WatchNo} {v : Watch}
    (hlow : b.lowestWatch = some (i, v)) : b.addReport env c bank row k =
      if v.score < k.weight then (b.raise .watchFull (.channel c)).score env i (Watch.fresh c bank row k)
      else b.raise .watchFull (.channel c) := by
  unfold Body.addReport
  rw [hf]
  dsimp only
  rw [hi]
  dsimp only [Body.scoreFull]
  rw [hlow]
  rfl

end AddReport

/-- R53: a record at a decay. -/
theorem decay_watch (b : Body) (i : WatchNo) : b.decay.watch[i] = b.watch[i].bind Watch.decay := by
  simp [Body.decay]

/-- R52: a decay that is due. -/
theorem decay_due {s : State} (hr : s.running = true) (ht : s.decayTimer = 0) :
    exec .decay s = .next { s with decayTimer := s.items.decayPeriod * 1000, body := s.body.decay } := by
  rw [exec_decay, hr, ht]
  rfl

theorem decay_not_due {s : State} (h : ¬(s.running = true ∧ s.decayTimer = 0)) : exec .decay s = .next s := by
  rw [exec_decay]
  exact if_neg (by rw [Bool.and_eq_true, beq_iff_eq]; exact h)

/-- What a REPORT that is acted on leaves: the change, and the end of the change. -/
theorem report_acts {s : State} {l : ChanId} {f : RxFrame} {bank row : Nat} {kind : Byte} (hh : s.HoldsFrame l f)
    (hp : f.is 0x87#8 = true) (h0 : f.num 0 1 = bank) (h1 : f.num 1 3 = row) (h4 : f.at 4 = kind)
    (ha : (s.body.popFrame l).reportable l bank row = true) {b' : Body}
    (hb : (s.body.popFrame l).addReport s.env l bank row (reportKind kind) = b') :
    exec (.report l) s = .next { s with body := b'.finish s.env } := by
  subst h0 h1 h4 hb
  rw [exec_report]
  exact takeFrame_acts hh hp (if_pos ha)

/-- Settles O48: the record found, free or lowest, and the decay record by record. -/
theorem reportsAreScoredAndDecay : Obligations.ReportsAreScoredAndDecay := by
  unfold Obligations.ReportsAreScoredAndDecay
  refine ⟨fun s l f bank row kind hh hp hb hr hf => ?report, fun s l h => by rw [exec_report]; exact takeFrame_idle h,
    fun s => ⟨fun hr ht => ⟨_, decay_due hr ht, rfl, fun i => ?_⟩, decay_not_due⟩⟩
  case report =>
    intro b acted weight ue fresh put watches
    have h0 : f.num 0 1 = bank := (num_of_payload hf _ _).trans (ofBytes_be1 hb)
    have h1 : f.num 1 3 = row := (num_of_payload hf _ _).trans (ofBytes_be3 hr)
    have h4 : f.at 4 = kind := at_of_payload hf _
    have hkind : kind.toNat ≤ 2 := by
      obtain ⟨hw, ht⟩ := (LinkIn.is_iff ..).1 hp
      exact ((LinkIn.wellFormed_iff f).1 hw).2.1 ht kind (by rw [hf]; rfl)
    have hacts := fun ha : acted => fun (b' : Body) => report_acts (b' := b') hh hp h0 h1 h4 ((reportable_iff ..).2 ha)
    have hfresh : Watch.fresh l bank row (reportKind kind) = fresh := fresh_eq l bank row hkind
    have hweight : (reportKind kind).weight = weight := reportKind_weight kind
    refine ⟨fun hn => ?_, fun ha => ⟨fun i w hw hu => hacts ha _ ?_, fun hnone =>
      ⟨fun i hi hleast => hacts ha _ ?_, fun i w hfull hw hmin => ?_⟩⟩⟩
    · rw [exec_report]
      refine takeFrame_ignores hh hp (if_neg ?_)
      rw [h0, h1]
      exact mt (reportable_iff ..).1 hn
    · obtain ⟨hi, rfl, rfl, rfl⟩ := hw
      refine (addReport_adds (findWatch_unique ⟨hi, rfl, rfl, rfl⟩ hu) hi).trans ?_
      rw [add_eq w hkind hweight]
      rfl
    · refine (addReport_fills (findWatch_absent hnone) (freeWatch_some hi hleast)).trans ?_
      rw [hfresh]
      rfl
    · have hadd := addReport_full (env := s.env) (b := b) (k := reportKind kind) (findWatch_absent hnone) (freeWatch_none hfull)
        (lowestWatch_some hw hmin)
      rw [hweight, hfresh] at hadd
      exact ⟨fun hlt => hacts ha _ (hadd.trans (if_pos hlt)), fun hle => hacts ha _ (hadd.trans (if_neg (Nat.not_lt.2 hle)))⟩
  · have hi := decay_watch s.body i
    refine ⟨fun hn => ?_, fun w hw => ⟨fun h => ?_, fun h => ?_⟩⟩
    · exact hi.trans (by rw [hn]; rfl)
    · exact hi.trans (by rw [hw]; exact if_pos h)
    · exact hi.trans (by rw [hw]; exact if_neg h)

/-! ### QUERY -/

section RowStatus

variable {b : Body} {c : ChanId} {bank row : Nat} {v : Inventory}

theorem rowStatus_none (h : ¬∃ v, b.inv[c] = some v ∧ v.geo.ordinary bank row = true) : b.rowStatus c bank row = .normal := by
  unfold Body.rowStatus
  cases hv : b.inv[c] with
  | none => rfl
  | some v => exact if_pos (Bool.eq_false_iff.2 fun ho => h ⟨v, hv, ho⟩)

theorem rowStatus_excluded (hv : b.inv[c] = some v) (ho : v.geo.ordinary bank row = true) (hx : BankExcluded b c bank) :
    b.rowStatus c bank row = .excluded := by
  unfold Body.rowStatus
  rw [hv]
  dsimp only
  rw [if_neg (by rw [ho]; exact Bool.noConfusion), if_pos ((excluded_iff ..).2 hx)]

/-- R146, past its first two lines: the entry's status, or the watch table's. -/
theorem rowStatus_row (hv : b.inv[c] = some v) (ho : v.geo.ordinary bank row = true) (hx : ¬BankExcluded b c bank) :
    b.rowStatus c bank row =
      (((b.findKey ⟨c, bank, some row⟩).bind fun e => b.dir[e].live).bind (entryStatus v.geo)).getD (b.watchStatus c bank row) := by
  unfold Body.rowStatus
  rw [hv]
  dsimp only
  rw [if_neg (by rw [ho]; exact Bool.noConfusion), if_neg (mt (excluded_iff ..).1 hx)]

theorem entryStatus_fenced (g : Geometry) {r : Live} (h : r.st ∈ [.fencing, .retireFencing]) : entryStatus g r = some .fenced :=
  if_pos (by simpa using h)

/-- In these states the client holds the directory's mapping (R146). -/
theorem inForce_mapped {st : EntryState} (h : st ∈ [.active, .refill, .retireWait, .removing]) :
    ¬(st = .fencing ∨ st = .retireFencing) ∧ st.mapped = true := by
  revert h
  cases st <;> decide

theorem entryStatus_excluded (g : Geometry) {r : Live} (h : r.st ∈ [.active, .refill, .retireWait, .removing])
    (hx : r.repl = some .exclude) : entryStatus g r = some .excluded := by
  obtain ⟨hfence, hmap⟩ := inForce_mapped h
  unfold entryStatus
  rw [if_neg hfence, if_pos hmap, hx]

theorem entryStatus_device (g : Geometry) {r : Live} (h : r.st ∈ [.active, .refill, .retireWait, .removing]) {n i : Nat}
    (hx : r.repl = some (.target (.device n i))) : entryStatus g r = some (.repairedDevice n i) := by
  obtain ⟨hfence, hmap⟩ := inForce_mapped h
  unfold entryStatus
  rw [if_neg hfence, if_pos hmap, hx]

theorem entryStatus_pool (g : Geometry) {r : Live} (h : r.st ∈ [.active, .refill, .retireWait, .removing]) {k : Nat}
    (hx : r.repl = some (.target (.pool k))) : entryStatus g r = some (.repairedPool g.poolBank (g.slotRow k)) := by
  obtain ⟨hfence, hmap⟩ := inForce_mapped h
  unfold entryStatus
  rw [if_neg hfence, if_pos hmap, hx]

theorem entryStatus_none (g : Geometry) {r : Live} (h : r.st ∈ [.unresolved, .pending, .installing]) : entryStatus g r = none := by
  have hst : ¬(r.st = .fencing ∨ r.st = .retireFencing) ∧ ¬r.st.mapped = true := by
    revert h
    cases r.st <;> decide
  unfold entryStatus
  rw [if_neg hst.1, if_neg hst.2]

theorem watchStatus_some {i : WatchNo} {w : Watch} (hf : b.findWatch c bank row = some i) (hw : b.watch[i] = some w) :
    b.watchStatus c bank row = .watched w.score := by
  unfold Body.watchStatus
  rw [hf, Option.bind_some, hw]

theorem watchStatus_none (hf : b.findWatch c bank row = none) : b.watchStatus c bank row = .normal := by
  unfold Body.watchStatus
  rw [hf]
  rfl

end RowStatus

/-- Settles O50: the first line that applies, by the entry's state and the watch table. -/
theorem queryIsAnswered : Obligations.QueryIsAnswered := by
  unfold Obligations.QueryIsAnswered
  refine ⟨fun s l f bank row hh hp hb hr hf => ?query, fun s l h => by rw [exec_query]; exact takeFrame_idle h,
    fun b c bank row => ?status⟩
  case query =>
    have h0 : f.num 0 1 = bank := (num_of_payload hf _ _).trans (ofBytes_be1 hb)
    have h1 : f.num 1 3 = row := (num_of_payload hf _ _).trans (ofBytes_be3 hr)
    rw [exec_query]
    exact takeFrame_acts hh hp (by rw [h0, h1]; rfl)
  case status =>
    intro ordinary entry inForce status fromWatch
    refine ⟨rowStatus_none, fun ⟨v, hv, ho⟩ hx => rowStatus_excluded hv ho hx, fun ⟨v, hv, ho⟩ hx => ?_⟩
    have hrow := rowStatus_row hv ho hx
    have hentry : ∀ {r}, entry r → status = (entryStatus v.geo r).getD (b.watchStatus c bank row) := by
      rintro r ⟨e, hl, hk, hu⟩
      refine hrow.trans ?_
      rw [findKey_some hl hk hu, Option.bind_some, hl, Option.bind_some]
    refine ⟨fun r hr hs => ?_, fun r hr hf => ?_, fun hwait => ?_⟩
    · rw [hentry hr, entryStatus_fenced _ hs]
      rfl
    · refine ⟨fun hx => ?_, fun g i hx => ?_, fun k w hx hw => ?_⟩
      · rw [hentry hr, entryStatus_excluded _ hf.1 hx]
        exact Option.getD_some
      · rw [hentry hr, entryStatus_device _ hf.1 hx]
        exact Option.getD_some
      · obtain rfl : v = w := Option.some.inj (hv.symm.trans hw)
        rw [hentry hr, entryStatus_pool _ hf.1 hx]
        exact Option.getD_some
    · have hwatch : status = b.watchStatus c bank row := by
        refine hrow.trans ?_
        cases hk : b.findKey ⟨c, bank, some row⟩ with
        | none => rfl
        | some e =>
          obtain ⟨⟨r, hl, hkey⟩, -⟩ := (findEntry_iff ..).1 hk
          rw [Option.bind_some, hl, Option.bind_some, entryStatus_none _ (hwait e r hl (beq_iff_eq.1 hkey))]
          rfl
      exact ⟨fun i w hw hu => hwatch.trans (watchStatus_some (findWatch_unique hw hu) hw.1), fun hn =>
        hwatch.trans (watchStatus_none (findWatch_absent hn))⟩

end Sys2Proof.Proofs.Watching
end

section
/-! SUPPORT. GEOMETRY with its fields and its ranges, the claim of the entries that a memory shows again, and STEP_DONE. -/

namespace Sys2Proof.Proofs.Discovery

open Sys2Proof Sys2Proof.Machine Sys2Proof.Laws Sys2Proof.Proofs.Frames

/-! ### The commands -/

section Arms

variable (l : ChanId) (s : State)

theorem exec_geometry : exec (.geometry l) s =
    takeFrame l (·.is 0x82#8) (fun env b f => b.takeGeometry env l f.geometry) s := rfl

theorem exec_stepDone : exec (.stepDone l) s = takeFrame l (·.is 0x83#8)
    (fun env b f => (b.stepOf l (f.at 0)).map fun r => b.stepOutcome env l r.kind (f.at 1)) s := rfl

end Arms

/-! ### The fields of a GEOMETRY -/

theorem ofBytes_cons_fits (bs : List Byte) : FitsBytes bs.length (ofBytes bs) := by
  unfold FitsBytes
  induction bs using List.reverseRecOn with
  | nil => decide
  | append_singleton bs x ih =>
    have hx := x.isLt
    have hof : ofBytes (bs ++ [x]) = ofBytes bs * 256 + x.toNat := by simp [ofBytes]
    rw [hof, List.length_append, List.length_singleton, Nat.pow_succ]
    omega

theorem be1_ofBytes {bs : List Byte} (h : bs.length = 1) : be1 (ofBytes bs) = bs := by
  obtain ⟨x, rfl⟩ := List.length_eq_one_iff.1 h
  simp [be1, ofBytes]

theorem be4_ofBytes {bs : List Byte} (h : bs.length = 4) : be4 (ofBytes bs) = bs := by
  obtain ⟨w, x, y, z, rfl⟩ : ∃ w x y z, bs = [w, x, y, z] := by
    match bs, h with
    | [w, x, y, z], _ => exact ⟨w, x, y, z, rfl⟩
  have hw := w.isLt
  have hx := x.isLt
  have hy := y.isLt
  have hz := z.isLt
  simp only [be4, ofBytes, List.foldl_cons, List.foldl_nil, List.cons.injEq, and_true]
  refine ⟨?_, ?_, ?_, ?_⟩ <;> apply BitVec.eq_of_toNat_eq <;> rw [BitVec.toNat_ofNat] <;> omega

/-- The bytes of a field, and what follows them. -/
theorem take_append_drop_from (bs : List Byte) (a n : Nat) : (bs.drop a).take n ++ bs.drop (a + n) = bs.drop a := by
  rw [← List.drop_drop, List.take_append_drop]

/-- R189: a payload of the length of a GEOMETRY is its fields in their order. -/
theorem geometry_payload {f : RxFrame} (h : f.payload.length = 21) : f.payload =
    be1 f.geometry.banks ++ be4 f.geometry.rowsPerBank ++ be1 f.geometry.banksPerGroup ++ be1 f.geometry.sparesPerGroup ++
      be1 f.geometry.poolBank ++ be1 f.geometry.poolRows ++ f.geometry.serial := by
  have hlen : ∀ a n, a + n ≤ 21 → ((f.payload.drop a).take n).length = n := fun a n hn => by
    rw [List.length_take, List.length_drop, h]
    omega
  have hserial : (f.payload.drop 9).take 12 = f.payload.drop 9 := List.take_of_length_le (by rw [List.length_drop, h])
  simp only [RxFrame.geometry, RxFrame.num]
  rw [be1_ofBytes (hlen 0 1 (by decide)), be4_ofBytes (hlen 1 4 (by decide)), be1_ofBytes (hlen 5 1 (by decide)),
    be1_ofBytes (hlen 6 1 (by decide)), be1_ofBytes (hlen 7 1 (by decide)), be1_ofBytes (hlen 8 1 (by decide)), hserial]
  simp only [List.append_assoc]
  rw [take_append_drop_from _ 8 1, take_append_drop_from _ 7 1, take_append_drop_from _ 6 1, take_append_drop_from _ 5 1,
    take_append_drop_from _ 1 4, take_append_drop_from _ 0 1, List.drop_zero]

theorem geometry_iff (f : RxFrame) (g : Geometry) (h : f.payload.length = 21) : f.geometry = g ↔ g.serial.length = 12 ∧
    FitsBytes 1 g.banks ∧ FitsBytes 4 g.rowsPerBank ∧ FitsBytes 1 g.banksPerGroup ∧ FitsBytes 1 g.sparesPerGroup ∧
    FitsBytes 1 g.poolBank ∧ FitsBytes 1 g.poolRows ∧ f.payload = be1 g.banks ++ be4 g.rowsPerBank ++
      be1 g.banksPerGroup ++ be1 g.sparesPerGroup ++ be1 g.poolBank ++ be1 g.poolRows ++ g.serial := by
  constructor
  · rintro rfl
    have hlen : ∀ a n, a + n ≤ 21 → ((f.payload.drop a).take n).length = n := fun a n hn => by
      rw [List.length_take, List.length_drop, h]
      omega
    have hfits : ∀ a n, a + n ≤ 21 → FitsBytes n (f.num a n) := fun a n hn => by
      have := ofBytes_cons_fits ((f.payload.drop a).take n)
      rw [hlen a n hn] at this
      exact this
    exact ⟨hlen 9 12 (by decide), hfits 0 1 (by decide), hfits 1 4 (by decide), hfits 5 1 (by decide), hfits 6 1 (by decide),
      hfits 7 1 (by decide), hfits 8 1 (by decide), geometry_payload h⟩
  · rintro ⟨hserial, h0, h1, h5, h6, h7, h8, hp⟩
    obtain ⟨banks, rows, perGroup, spares, poolBank, poolRows, serial⟩ := g
    have hform : f.geometry = ⟨ofBytes (be1 banks), ofBytes (be4 rows), ofBytes (be1 perGroup), ofBytes (be1 spares),
        ofBytes (be1 poolBank), ofBytes (be1 poolRows), serial.take 12⟩ := by
      unfold RxFrame.geometry RxFrame.num
      rw [hp]
      rfl
    rw [hform, ofBytes_be1 h0, ofBytes_be4 h1, ofBytes_be1 h5, ofBytes_be1 h6, ofBytes_be1 h7, ofBytes_be1 h8,
      List.take_of_length_le (Nat.le_of_eq hserial)]

theorem rowCounts_iff (n : Nat) : n ∈ rowCounts ↔ ∃ k, 10 ≤ k ∧ k ≤ 17 ∧ n = 2 ^ k := by
  constructor
  · intro h
    simp only [rowCounts, List.mem_cons, List.not_mem_nil, or_false] at h
    rcases h with rfl | rfl | rfl | rfl | rfl | rfl | rfl | rfl
    · exact ⟨10, by decide⟩
    · exact ⟨11, by decide⟩
    · exact ⟨12, by decide⟩
    · exact ⟨13, by decide⟩
    · exact ⟨14, by decide⟩
    · exact ⟨15, by decide⟩
    · exact ⟨16, by decide⟩
    · exact ⟨17, by decide⟩
  · rintro ⟨k, h1, h2, rfl⟩
    interval_cases k <;> decide

/-- R27: the ranges of a GEOMETRY's fields. -/
theorem accepted_iff (g : Geometry) : g.accepted = true ↔ 1 ≤ g.banks ∧ g.banks ≤ 32 ∧
    (∃ k, 10 ≤ k ∧ k ≤ 17 ∧ g.rowsPerBank = 2 ^ k) ∧ 1 ≤ g.banksPerGroup ∧ g.banksPerGroup ≤ 8 ∧
    g.banksPerGroup ∣ g.banks ∧ g.sparesPerGroup ≤ 4 ∧ g.poolBank < g.banks ∧ g.poolRows ≤ 128 ∧
    g.poolRows < g.rowsPerBank := by
  unfold Geometry.accepted
  simp only [Bool.and_eq_true, decide_eq_true_eq, rowCounts_iff, Nat.dvd_iff_mod_eq_zero, and_assoc]

/-! ### GEOMETRY in its wait -/

theorem rediscoveryFrees_iff (c : ChanId) (old : Option Inventory) (g : Geometry) (w : Watch) :
    rediscoveryFrees c old g w = true ↔
      w.chan = c ∧ (old.map (·.tag) ≠ some (crc16 g.serial) ∨ g.ordinary w.bank w.row = false) := by
  unfold rediscoveryFrees
  rw [Bool.and_eq_true, Bool.or_eq_true, beq_iff_eq, bne_iff_ne, Bool.not_eq_true']

theorem dropWatch_watch (b : Body) (p : Watch → Bool) (i : WatchNo) : (b.dropWatch p).watch[i] = match b.watch[i] with
    | none => none
    | some w => if p w = true then none else some w := by
  have h : (b.dropWatch p).watch[i] = b.watch[i].filter fun w => !p w := by simp [Body.dropWatch]
  rw [h]
  cases b.watch[i] with
  | none => rfl
  | some w => cases hp : p w <;> simp [hp]

section TakeGeometry

variable {env : Env} {b : Body} {c : ChanId} {g : Geometry}

theorem takeGeometry_ignored (h : ¬(b.chan[c].state = .test ∧ b.chan[c].phase = some .discover ∧ b.chan[c].geomWait ≠ none)) :
    b.takeGeometry env c g = none := if_neg (by rw [Option.isSome_iff_ne_none]; exact h)

theorem takeGeometry_refused (h : b.chan[c].state = .test ∧ b.chan[c].phase = some .discover ∧ b.chan[c].geomWait ≠ none)
    (hg : g.accepted = false) : b.takeGeometry env c g =
      some ((b.modChan c fun ch => { ch with geomWait := none }).failChannel env c .geometry) := by
  unfold Body.takeGeometry
  rw [if_pos (by rw [Option.isSome_iff_ne_none]; exact h)]
  dsimp only
  rw [if_neg (by rw [hg]; exact Bool.false_ne_true)]

theorem takeGeometry_accepted (h : b.chan[c].state = .test ∧ b.chan[c].phase = some .discover ∧ b.chan[c].geomWait ≠ none)
    (hg : g.accepted = true) : b.takeGeometry env c g =
      some ((b.modChan c fun ch => { ch with geomWait := none }).rediscover env c g) := by
  unfold Body.takeGeometry
  rw [if_pos (by rw [Option.isSome_iff_ne_none]; exact h)]
  dsimp only
  rw [if_pos hg]

/-- An entry of the channel is left UNRESOLVED (R46). -/
theorem unresolved_iff (b : Body) (c : ChanId) : (b.anyEntry fun r => r.key.chan == c && r.st == .unresolved) = true ↔
    ∃ (e : EntryNo) (r : Live), b.dir[e].live = some r ∧ r.key.chan = c ∧ r.st = .unresolved := by
  rw [anyEntry_iff]
  simp

theorem rediscover_unresolved {b3 : Body} (h3 : (b.dropWatch (rediscoveryFrees c b.inv[c] g)).claim env c g = b3)
    (h : ∃ (e : EntryNo) (r : Live), b3.dir[e].live = some r ∧ r.key.chan = c ∧ r.st = .unresolved) :
    b.rediscover env c g = b3.failChannel env c .unrepairable := by
  unfold Body.rediscover
  rw [h3]
  exact if_pos ((unresolved_iff b3 c).2 h)

theorem rediscover_claimed {b3 : Body} (h3 : (b.dropWatch (rediscoveryFrees c b.inv[c] g)).claim env c g = b3)
    (h : ¬∃ (e : EntryNo) (r : Live), b3.dir[e].live = some r ∧ r.key.chan = c ∧ r.st = .unresolved) :
    b.rediscover env c g = b3.enterPoolcheck env c := by
  unfold Body.rediscover
  rw [h3]
  exact if_neg (mt (unresolved_iff b3 c).1 h)

end TakeGeometry

/-- Settles O42: the fields and ranges, and the wait met or not. -/
theorem geometryIsTakenInItsWait : Obligations.GeometryIsTakenInItsWait := by
  unfold Obligations.GeometryIsTakenInItsWait
  refine ⟨geometry_iff, accepted_iff, ordinary_iff, fun s l f hh hp => ?taken, fun s l h => by
    rw [exec_geometry]; exact takeFrame_idle h⟩
  case taken =>
    rw [exec_geometry]
    intro b ch waits b1
    refine ⟨fun h => takeFrame_ignores hh hp (takeGeometry_ignored h), fun h hg =>
      takeFrame_acts hh hp (takeGeometry_refused h hg), fun h hg => ?_⟩
    have htake := takeGeometry_accepted (env := s.env) (b := s.body.popFrame l) h hg
    refine ⟨b1.dropWatch (rediscoveryFrees l b1.inv[l] f.geometry), rfl, fun i => ?_, ?_⟩
    · refine (dropWatch_watch ..).trans ?_
      simp only [rediscoveryFrees_iff]
      rfl
    · intro b3 open_
      exact ⟨fun ho => takeFrame_acts hh hp (htake.trans (congrArg some (rediscover_unresolved rfl ho))),
        fun ho => takeFrame_acts hh hp (htake.trans (congrArg some (rediscover_claimed rfl ho)))⟩

end Sys2Proof.Proofs.Discovery
end

section
/-! SUPPORT. The claim of the entries that a memory shows again, and the end of a step by its STEP_DONE. -/

namespace Sys2Proof.Proofs.Claim

open Sys2Proof Sys2Proof.Machine Sys2Proof.Laws Sys2Proof.Proofs.LinkIn Sys2Proof.Proofs.Discovery

/-! ### What a visit asks of an entry -/

/-- R43: the entry still belongs to the channel's memory. -/
theorem belongs_iff (r : Live) (v : Inventory) : r.belongs v = true ↔
    (r.tag = v.tag ∨ (r.origin = .seed ∧ r.tag = 0#16)) ∧ r.key.bank < v.geo.banks ∧
      ∀ row, r.key.row = some row → v.geo.ordinary r.key.bank row = true := by
  have hrow : (r.key.row.all fun row => v.geo.ordinary r.key.bank row) = true ↔
      ∀ row, r.key.row = some row → v.geo.ordinary r.key.bank row = true := by
    cases r.key.row <;> simp
  unfold Live.belongs
  rw [Bool.and_eq_true, Bool.and_eq_true, Bool.or_eq_true, Bool.and_eq_true, decide_eq_true_iff, hrow, beq_iff_eq, beq_iff_eq,
    beq_iff_eq, and_assoc]

/-- R45: a held or requested replacement can be kept. -/
theorem keeps_iff (env : Env) (v : Inventory) (c : ChanId) (bank : Nat) (x : Replacement) : v.keeps env c bank x = true ↔
    match x with
      | .target (.pool k) => v.slots[k]? = some .free
      | .target (.device g i) => env.items.deviceSparesUse = 1 ∧ g = bank / v.geo.banksPerGroup ∧ v.spare g i = some .free
      | .exclude => c.val < 8 ∧ v.exclusions < 32 := by
  rcases x with (⟨g, i⟩ | k) | _
  · simp [Inventory.keeps, Geometry.group, and_assoc]
  · simp [Inventory.keeps]
  · show (isBuffer c && decide (v.exclusions < 32)) = true ↔ _
    rw [Bool.and_eq_true, isBuffer_eq, decide_eq_true_iff, decide_eq_true_iff]

theorem wanted_iff (r : Live) (x : Replacement) :
    r.wanted = some x ↔ r.repl = some x ∨ (r.repl = none ∧ ∃ t, r.requested = some t ∧ x = .target t) := by
  unfold Live.wanted
  cases r.repl with
  | some y => simp
  | none => simp [eq_comm]

theorem former_iff (r : Live) (x : Target) : r.former = some x ↔ r.wanted = some (.target x) := by
  rw [wanted_iff]
  unfold Live.former
  rcases r.repl with _ | (t | _) <;> simp

/-! ### A visit of the claim -/

section Visit

variable {env : Env} {b : Body} {c : ChanId} {kept : List Nat} {e : EntryNo} {r : Live} {v : Inventory}

theorem claimVisit_forgets (hl : b.dir[e].live = some r) (hv : b.inv[c] = some v) (h : r.belongs v = false ∨ r.key.bank ∈ kept) :
    Body.claimVisit env c (b, kept) e = (b.changeEntry e none, kept) := by
  unfold Body.claimVisit
  dsimp only
  rw [hl, hv]
  exact if_pos h

theorem claimVisit_bank (hl : b.dir[e].live = some r) (hv : b.inv[c] = some v) (h : ¬(r.belongs v = false ∨ r.key.bank ∈ kept))
    (hr : r.key.row = none) : Body.claimVisit env c (b, kept) e = (b.claimBank c e r v, r.key.bank :: kept) := by
  unfold Body.claimVisit
  dsimp only
  rw [hl, hv]
  dsimp only
  rw [if_neg h, hr]

theorem claimVisit_row (hl : b.dir[e].live = some r) (hv : b.inv[c] = some v) (h : ¬(r.belongs v = false ∨ r.key.bank ∈ kept))
    (hr : r.key.row ≠ none) : Body.claimVisit env c (b, kept) e = (b.claimRow env c e r v, kept) := by
  obtain ⟨row, hrow⟩ := Option.ne_none_iff_exists'.1 hr
  unfold Body.claimVisit
  dsimp only
  rw [hl, hv]
  dsimp only
  rw [if_neg h, hrow]

/-- A change of one entry leaves a test of the entries below it. -/
theorem filter_below_changeEntry (b : Body) (e : EntryNo) (l : Option Live) (p : Live → Bool) (es : List EntryNo) :
    ((es.filter fun d => (b.changeEntry e l).dir[d].live.any p).filter (· < e)) =
      es.filter fun d => decide (d < e) && b.dir[d].live.any p := by
  rw [List.filter_filter]
  refine List.filter_congr fun d _ => ?_
  by_cases hd : d < e
  · rw [changeEntry_other b _ (Ne.symm (ne_of_lt hd))]
  · simp [hd]

/-- R44: the row entries of the bank that were visited before it are freed. -/
theorem claimBank_eq (b : Body) (c : ChanId) (e : EntryNo) (r : Live) (v : Inventory) : b.claimBank c e r v =
    ((List.finRange 1024).filter fun d => decide (d < e) && b.dir[d].live.any fun q =>
      q.key.chan == c && q.key.bank == r.key.bank).foldl Body.freeEntry
        (b.changeEntry e (some { r with st := .pending, repl := some .exclude, requested := none, tag := v.tag, round := 0 })) := by
  unfold Body.claimBank
  dsimp only
  rw [entriesWhere_eq, filter_below_changeEntry]

/-- R45: a visit gives a row entry the target it keeps, or the next one of R36. -/
theorem claimRow_gives {x : Replacement} (hv : b.inv[c] = some v)
    (h : ((r.wanted.filter (v.keeps env c r.key.bank)).orElse fun _ => b.choose env c r.key.bank) = some x) :
    b.claimRow env c e r v = Body.changeEntry { b with inv := b.inv.set c (some (v.take x)) } e
      (some { r with st := .pending, repl := some x, requested := none, tag := v.tag, round := 0 }) := by
  unfold Body.claimRow
  dsimp only
  rw [h]
  unfold Body.modInv
  dsimp only
  rw [hv]
  rfl

/-- R46: with nothing left the entry is UNRESOLVED. -/
theorem claimRow_unresolved
    (h : ((r.wanted.filter (v.keeps env c r.key.bank)).orElse fun _ => b.choose env c r.key.bank) = none) :
    b.claimRow env c e r v = b.changeEntry e
      (some { r with st := .unresolved, repl := none, requested := r.former, tag := v.tag, round := 0 }) := by
  unfold Body.claimRow
  dsimp only
  rw [h]

end Visit

/-- Settles O43: the visit by what the entry keeps, and the choice when nothing is kept. -/
theorem claimKeepsOrFreesEntries : Obligations.ClaimKeepsOrFreesEntries := by
  unfold Obligations.ClaimKeepsOrFreesEntries
  refine ⟨fun _ => rfl, fun env b c g => ?_, fun env b c kept e r v hl hc hv => ?_⟩
  · unfold Body.claim
    dsimp only
    rw [entriesWhere_eq]
  · intro belongs write
    have hbelongs : (r.belongs v = false ∨ r.key.bank ∈ kept) ↔ ¬belongs ∨ r.key.bank ∈ kept := by
      rw [← Bool.not_eq_true, belongs_iff]
    refine ⟨fun h => claimVisit_forgets hl hv (hbelongs.2 h), fun hb hk => ?_⟩
    have hstay : ¬(r.belongs v = false ∨ r.key.bank ∈ kept) := mt hbelongs.1 fun h => h.elim (fun h => h hb) hk
    refine ⟨fun hr => (claimVisit_bank hl hv hstay hr).trans (congrArg (·, r.key.bank :: kept) (claimBank_eq b c e r v)),
      fun hr => ?_⟩
    intro wants free keeps
    have hrow := claimVisit_row (env := env) hl hv hstay hr
    have hgives : ∀ {x}, ((r.wanted.filter (v.keeps env c r.key.bank)).orElse fun _ => b.choose env c r.key.bank) = some x →
        keeps x := fun h => hrow.trans (congrArg (·, kept) (claimRow_gives hv h))
    refine ⟨fun x hw hf => hgives ?_, fun hn => ?_⟩
    · rw [(wanted_iff r x).2 hw, Option.filter_some, if_pos ((keeps_iff ..).2 hf)]
      rfl
    · have hkept : r.wanted.filter (v.keeps env c r.key.bank) = none := by
        rw [Option.filter_eq_none_iff]
        exact fun x hw hf => hn x ((wanted_iff r x).1 hw) ((keeps_iff ..).1 hf)
      refine ⟨fun x hx => hgives (by rw [hkept, hx]; rfl), fun hx => ⟨r.former, ?_, fun x => ?_⟩⟩
      · exact hrow.trans (congrArg (·, kept) (claimRow_unresolved (by rw [hkept, hx]; rfl)))
      · rw [former_iff, wanted_iff]

/-! ### STEP_DONE -/

section Step

variable {env : Env} {b : Body} {c : ChanId} {k : StepKind}

theorem stepOf_none {tok : Byte} (h : b.chan[c].state ≠ .test ∨ ∀ r, b.chan[c].step = some r → r.token ≠ tok) :
    b.stepOf c tok = none := by
  unfold Body.stepOf
  rcases h with h | h
  · exact if_neg h
  · split
    · rw [Option.filter_eq_none_iff]
      exact fun r hr ht => h r hr (beq_iff_eq.1 ht)
    · rfl

theorem stepOf_some {r : Running} (hs : b.chan[c].state = .test) (hr : b.chan[c].step = some r) : b.stepOf c r.token = some r := by
  unfold Body.stepOf
  rw [if_pos hs, hr, Option.filter_some, if_pos (beq_self_eq_true _)]

theorem optional_iff (o : Option PlanStep) :
    (o.map (·.mandatory)).getD true = false ↔ ∃ x, o = some x ∧ x.mandatory = false := by
  cases o <;> simp

/-- R69: an optional step is a plan step that is not mandatory. -/
theorem stepMandatory_iff (env : Env) (k : StepKind) :
    stepMandatory env k = false ↔ ∃ n x, k = .plan n ∧ env.plan[n] = some x ∧ x.mandatory = false := by
  cases k with
  | poolcheck | verify => simp [stepMandatory]
  | plan n =>
    exact (optional_iff _).trans ⟨fun ⟨x, hx, h⟩ => ⟨n, x, rfl, hx, h⟩,
      fun ⟨m, x, hm, hx, h⟩ => ⟨x, by rw [StepKind.plan.inj hm]; exact hx, h⟩⟩

theorem stepOutcome_complete : b.stepOutcome env c k 0#8 = (b.endStep env c).afterStep env c k := rfl

theorem stepOutcome_halted : b.stepOutcome env c k 1#8 = if stepMandatory env k then b.failChannel env c .agent
    else ((b.endStep env c).modChan c fun ch => { ch with skipped := ch.skipped + 1 }).afterStep env c k := rfl

theorem stepOutcome_error : b.stepOutcome env c k 2#8 = b.failChannel env c .agent := rfl

theorem stepOutcome_other {out : Byte} (h : 2 < out.toNat) : b.stepOutcome env c k out = b.failChannel env c .protocol := by
  have hne : ∀ x : Byte, x.toNat ≤ 2 → out ≠ x := fun x hx he => by
    rw [he] at h
    omega
  unfold Body.stepOutcome
  rw [if_neg (hne 0#8 (by decide)), if_neg (hne 1#8 (by decide)), if_neg (hne 2#8 (by decide))]

end Step

/-- Settles O44: the token, then each outcome. -/
theorem stepDoneEndsTheStep : Obligations.StepDoneEndsTheStep := by
  unfold Obligations.StepDoneEndsTheStep
  refine ⟨fun s l f tok out hh hp hf => ?done, fun s l h => by rw [exec_stepDone]; exact takeFrame_idle h,
    fun env b c => ⟨rfl, fun _ => rfl, fun _ => rfl⟩⟩
  case done =>
    rw [exec_stepDone]
    intro b ch go
    have h0 : f.at 0 = tok := at_of_payload hf _
    have h1 : f.at 1 = out := at_of_payload hf _
    refine ⟨fun h => takeFrame_ignores hh hp ?_, fun r hs hr ht => ?_⟩
    · rw [h0]
      exact congrArg (Option.map _) (stepOf_none h)
    · subst ht
      have hgo : ∀ {b'}, b.stepOutcome s.env l r.kind out = b' → go b' := by
        rintro b' rfl
        refine takeFrame_acts hh hp ?_
        rw [h0, h1]
        exact congrArg (Option.map _) (stepOf_some hs hr)
      intro optional ended
      refine ⟨fun ho => hgo ?_, fun ho hn => hgo ?_, fun ho hn => ⟨_, rfl, hgo ?_⟩, fun ho => hgo ?_, fun ho =>
        hgo (stepOutcome_other ho)⟩
      · rw [ho]
        exact stepOutcome_complete
      · rw [ho]
        exact stepOutcome_halted.trans (if_pos (by rw [← Bool.not_eq_false, stepMandatory_iff]; exact hn))
      · rw [ho]
        exact stepOutcome_halted.trans (if_neg (by rw [Bool.not_eq_true, stepMandatory_iff]; exact hn))
      · rw [ho]
        exact stepOutcome_error

end Sys2Proof.Proofs.Claim
end

section
/-! SUPPORT. FAIL: its checks, and what each phase makes of one that passes them. -/

namespace Sys2Proof.Proofs.Failing

open Sys2Proof Sys2Proof.Machine Sys2Proof.Laws Sys2Proof.Proofs.LinkIn Sys2Proof.Proofs.Frames Sys2Proof.Proofs.Claim

theorem exec_fail (l : ChanId) (s : State) : exec (.fail l) s = takeFrame l (·.is 0x84#8)
    (fun env b f => (b.stepOf l (f.at 0)).bind fun r => b.takeFail env l r (f.num 1 1) (f.num 2 3)) s := rfl

/-! ### The checks -/

theorem holds_iff (g : Geometry) (bank row : Nat) : g.holds bank row = true ↔ bank < g.banks ∧ row < g.rowsPerBank := by
  unfold Geometry.holds
  rw [Bool.and_eq_true, decide_eq_true_iff, decide_eq_true_iff]

/-- A row of the geometry lies in the pool region by its place in the pool bank. -/
theorem inPool_iff {g : Geometry} {bank row : Nat} (h : row < g.rowsPerBank) :
    g.inPool bank row = true ↔ bank = g.poolBank ∧ g.rowsPerBank - g.poolRows ≤ row := by
  unfold Geometry.inPool
  rw [Bool.and_eq_true, Bool.and_eq_true, beq_iff_eq, decide_eq_true_iff, decide_eq_true_iff]
  exact and_iff_left h

/-- R70, check 3: the region of each kind of step. -/
theorem inRegion_iff {g : Geometry} {bank row : Nat} (r : Running) (h : row < g.rowsPerBank) : inRegion g r bank row = true ↔
    match r.kind with
      | .poolcheck => bank = g.poolBank ∧ g.rowsPerBank - g.poolRows ≤ row
      | .plan _ => ¬(bank = g.poolBank ∧ g.rowsPerBank - g.poolRows ≤ row)
      | .verify _ => ⟨bank, row⟩ ∈ r.region := by
  unfold inRegion
  cases r.kind with
  | poolcheck => exact inPool_iff h
  | plan n =>
    dsimp only
    rw [Bool.not_eq_true', ← inPool_iff h, Bool.not_eq_true]
  | verify n => exact decide_eq_true_iff

section TakeFail

variable {env : Env} {b : Body} {c : ChanId} {r : Running} {bank row : Nat} {v : Inventory}

theorem takeFail_excluded (h : BankExcluded b c bank) : b.takeFail env c r bank row = none := if_pos ((excluded_iff ..).2 h)

theorem takeFail_unknown (h : ¬BankExcluded b c bank) (hv : b.inv[c] = none) :
    b.takeFail env c r bank row = some (b.failChannel env c .protocol) := by
  unfold Body.takeFail
  rw [if_neg (mt (excluded_iff ..).1 h), hv]

theorem takeFail_known (h : ¬BankExcluded b c bank) (hv : b.inv[c] = some v) : b.takeFail env c r bank row =
    some (if v.geo.holds bank row && inRegion v.geo r bank row then b.failByPhase env c v r.kind bank row
      else b.failChannel env c .protocol) := by
  unfold Body.takeFail
  rw [if_neg (mt (excluded_iff ..).1 h), hv]

end TakeFail

/-! ### The phases -/

section Phases

variable {env : Env} {b : Body} {c : ChanId} {v : Inventory} {row slot : Nat} {key : Key} {e : EntryNo} {q : Live}

theorem failPool_free (hv : b.inv[c] = some v) (hs : row - (v.geo.rowsPerBank - v.geo.poolRows) = slot)
    (h : v.slots[slot]? = some .free) :
    b.failPool env c v row = { b with inv := b.inv.set c (some { v with slots := v.slots.set slot .bad }) } := by
  subst hs
  unfold Body.failPool
  dsimp only
  rw [h]
  dsimp only [Body.modInv]
  rw [hv]
  rfl

theorem failPool_bad (hs : row - (v.geo.rowsPerBank - v.geo.poolRows) = slot) (h : v.slots[slot]? = some .bad) :
    b.failPool env c v row = b := by
  subst hs
  unfold Body.failPool
  dsimp only
  rw [h]

theorem failPool_used (hs : row - (v.geo.rowsPerBank - v.geo.poolRows) = slot) (h : v.slots[slot]? = some .used)
    (he : b.slotHolder c slot = some e) : b.failPool env c v row = b.testRetarget env c e none := by
  subst hs
  unfold Body.failPool
  dsimp only
  rw [h]
  dsimp only
  rw [he]

theorem failMain_new (h : b.findKey key = none) : b.failMain env key = b.failNew env key := by
  unfold Body.failMain
  rw [h]

theorem failMain_acts (h : b.findKey key = some e) (hl : b.dir[e].live = some q)
    (ha : q.st = .active ∧ ∃ t, q.repl = some (.target t)) : b.failMain env key = b.testRetarget env key.chan e none := by
  obtain ⟨hs, t, ht⟩ := ha
  unfold Body.failMain
  rw [h]
  dsimp only
  rw [hl]
  dsimp only
  rw [hs, ht]

theorem failMain_passes (h : b.findKey key = some e) (hl : b.dir[e].live = some q)
    (ha : ¬(q.st = .active ∧ ∃ t, q.repl = some (.target t))) : b.failMain env key = b := by
  unfold Body.failMain
  rw [h]
  dsimp only
  rw [hl]
  dsimp only
  split
  · rename_i hs ht
    exact absurd ⟨hs, _, ht⟩ ha
  · rfl

theorem failVerify_new (h : b.findKey key = none) (k : Nat) : b.failVerify env key k = b := by
  unfold Body.failVerify
  rw [h]

theorem failVerify_acts (h : b.findKey key = some e) (hl : b.dir[e].live = some q)
    (ha : q.st = .active ∧ ∃ t, q.repl = some (.target t)) (k : Nat) :
    b.failVerify env key k = b.failVerifyActive env key.chan e k := by
  obtain ⟨hs, t, ht⟩ := ha
  unfold Body.failVerify
  rw [h]
  dsimp only
  rw [hl]
  dsimp only
  rw [hs, ht]

theorem failVerify_passes (h : b.findKey key = some e) (hl : b.dir[e].live = some q)
    (ha : ¬(q.st = .active ∧ ∃ t, q.repl = some (.target t))) (k : Nat) : b.failVerify env key k = b := by
  unfold Body.failVerify
  rw [h]
  dsimp only
  rw [hl]
  dsimp only
  split
  · rename_i hs ht
    exact absurd ⟨hs, _, ht⟩ ha
  · rfl

theorem failByPhase_poolcheck (bank : Nat) : b.failByPhase env c v .poolcheck bank row = b.failPool env c v row := rfl

theorem failByPhase_plan (n : SlotNo) (bank : Nat) :
    b.failByPhase env c v (.plan n) bank row = b.failMain env ⟨c, bank, some row⟩ := rfl

theorem failByPhase_verify (n bank : Nat) :
    b.failByPhase env c v (.verify n) bank row = b.failVerify env ⟨c, bank, some row⟩ n := rfl

/-- R77: an ACTIVE entry with a target that fails in a VERIFY round. -/
theorem failVerifyActive_eq (hv : b.inv[c] = some v) (k : Nat) :
    (k < env.items.verifyRounds → b.failVerifyActive env c e k = (b.markRound c).testRetarget env c e (some k)) ∧
    (env.items.verifyRounds ≤ k → c.val < 8 → v.exclusions < 32 →
      b.failVerifyActive env c e k = ((b.markRound c).convert e k).countRepair c) ∧
    (env.items.verifyRounds ≤ k → 8 ≤ c.val ∨ 32 ≤ v.exclusions →
      b.failVerifyActive env c e k = b.failChannel env c .unrepairable) := by
  have hroom : (isBuffer c = true ∧ b.exclusions c < Config.exclusionMax) ↔ c.val < 8 ∧ v.exclusions < 32 := by
    have : b.exclusions c = v.exclusions := by
      unfold Body.exclusions
      rw [hv]
      rfl
    rw [isBuffer_eq, decide_eq_true_iff, this]
    rfl
  unfold Body.failVerifyActive
  refine ⟨fun hk => if_pos hk, fun hk hc hx => ?_, fun hk hx => ?_⟩
  · rw [if_neg (Nat.not_lt.2 hk), if_pos (hroom.2 ⟨hc, hx⟩)]
  · rw [if_neg (Nat.not_lt.2 hk), if_neg (mt hroom.1 fun h => hx.elim (Nat.not_le.2 h.1) (Nat.not_le.2 h.2))]

end Phases

/-- Settles O45: the token and the checks, then the phase and the entry found. -/
theorem failIsCheckedAndActedOn : Obligations.FailIsCheckedAndActedOn := by
  unfold Obligations.FailIsCheckedAndActedOn
  refine ⟨fun s l f tok bank row hh hp hb hrow hf => ?fail, fun s l h => by rw [exec_fail]; exact takeFrame_idle h⟩
  case fail =>
    rw [exec_fail]
    intro b ch go ignored
    have h0 : f.at 0 = tok := at_of_payload hf _
    have h1 : f.num 1 1 = bank := (num_of_payload hf _ _).trans (ofBytes_be1 hb)
    have h2 : f.num 2 3 = row := (num_of_payload hf _ _).trans (ofBytes_be3 hrow)
    refine ⟨fun h => takeFrame_ignores hh hp ?_, fun r hs hr ht => ?_⟩
    · rw [h0]
      exact congrArg (Option.bind · _) (stepOf_none h)
    subst ht
    have htake : ∀ {o}, b.takeFail s.env l r bank row = o → ((s.body.popFrame l).stepOf l (f.at 0)).bind (fun r =>
        (s.body.popFrame l).takeFail s.env l r (f.num 1 1) (f.num 2 3)) = o := by
      rintro o rfl
      rw [h0, h1, h2]
      exact congrArg (Option.bind · _) (stepOf_some hs hr)
    have hgo : ∀ {b'}, b.takeFail s.env l r bank row = some b' → go b' := fun h => takeFrame_acts hh hp (htake h)
    refine ⟨fun hx => takeFrame_ignores hh hp (htake (takeFail_excluded hx)), fun hx hv => hgo (takeFail_unknown hx hv),
      fun v hx hv => ?_⟩
    intro inside pool region
    have hknown := takeFail_known (env := s.env) (r := r) (row := row) hx hv
    refine ⟨fun hn => hgo (hknown.trans (congrArg some (if_neg fun h => hn ?_))), fun hin hreg => ?_⟩
    · obtain ⟨hin, hreg⟩ := Bool.and_eq_true_iff.1 h
      have hin := (holds_iff ..).1 hin
      exact ⟨hin, (inRegion_iff r hin.2).1 hreg⟩
    have hphase : ∀ {b'}, b.failByPhase s.env l v r.kind bank row = b' → go b' := by
      rintro b' rfl
      exact hgo (hknown.trans (congrArg some (if_pos (Bool.and_eq_true_iff.2
        ⟨(holds_iff ..).2 hin, (inRegion_iff r hin.2).2 hreg⟩))))
    refine ⟨fun hk => ?pool, fun hn => ⟨?_, ?_⟩, fun e q hl hq hu => ?entry⟩
    case pool =>
      rw [hk, failByPhase_poolcheck] at hphase
      intro slot
      exact ⟨fun h => hphase (failPool_free hv rfl h), fun h => hphase (failPool_bad rfl h),
        fun e h he => hphase (failPool_used rfl h he)⟩
    · rintro ⟨n, hk⟩
      rw [hk, failByPhase_plan] at hphase
      exact hphase (failMain_new (findKey_none.2 hn))
    · rintro ⟨n, hk⟩
      rw [hk, failByPhase_verify] at hphase
      exact hphase (failVerify_new (findKey_none.2 hn) n)
    case entry =>
      have hkey := findKey_some hl hq hu
      intro acts marked
      refine ⟨fun hn hk => ?_, ?_, fun k ha hk => ?_⟩
      · cases hkind : r.kind with
        | poolcheck => exact absurd hkind hk
        | plan n =>
          rw [hkind, failByPhase_plan] at hphase
          exact hphase (failMain_passes hkey hl hn)
        | verify n =>
          rw [hkind, failByPhase_verify] at hphase
          exact hphase (failVerify_passes hkey hl hn n)
      · rintro ha ⟨n, hk⟩
        rw [hk, failByPhase_plan] at hphase
        exact hphase (failMain_acts hkey hl ha)
      · rw [hk, failByPhase_verify, failVerify_acts hkey hl ha] at hphase
        obtain ⟨hearly, hbuffer, hlast⟩ := failVerifyActive_eq (env := s.env) (e := e) hv k
        exact ⟨fun h => hphase (hearly h), fun h hc hx => hphase (hbuffer h hc hx), fun h hx => hphase (hlast h hx)⟩

end Sys2Proof.Proofs.Failing
end

section
/-! SUPPORT. ACK: the frame it answers, and what its result does to an entry, to CLEAR_SET and to RELEASE. -/

namespace Sys2Proof.Proofs.Acks

open Sys2Proof Sys2Proof.Machine Sys2Proof.Laws Sys2Proof.Proofs.LinkIn

theorem exec_ack (l : ChanId) (s : State) :
    exec (.ack l) s = takeFrame l (·.is 0x85#8) (fun env b f => b.takeAck env l f) s := rfl

/-! ### The frame answered -/

section TakeAck

variable {env : Env} {b : Body} {c : ChanId} {f : RxFrame} {n : Byte}

/-- A sequence number is named by a byte below 16. -/
theorem seq_iff {n : Byte} (h : n.toNat ≤ 15) (q : BitVec 4) : q = n.truncate 4 ↔ q.toNat = n.toNat := by
  rw [← BitVec.toNat_inj, BitVec.truncate_eq_setWidth, BitVec.toNat_setWidth, Nat.mod_eq_of_lt (by omega : n.toNat < 2 ^ 4)]

theorem takeAck_none (h0 : f.at 0 = n) (h : ∀ g ∈ b.link[c].inflight, g.seq.toNat ≠ n.toNat) : b.takeAck env c f = none := by
  unfold Body.takeAck
  rw [h0]
  split
  · rfl
  · rename_i hn
    have hfind : (b.link[c].inflight.find? fun g => g.seq == n.truncate 4) = none := by
      rw [List.find?_eq_none]
      intro g hg he
      exact h g hg ((seq_iff (Nat.not_lt.1 hn) _).1 (beq_iff_eq.1 he))
    dsimp only
    rw [hfind]
    rfl

theorem takeAck_some (h0 : f.at 0 = n) {g : Inflight} (h : (b.link[c].inflight.find? fun g => g.seq.toNat == n.toNat) = some g) :
    b.takeAck env c f = some ((((b.modLink c (·.unflight g.seq)).ackOwner env c g.note (f.at 1 == 0#8)).resyncCheck c).advanceLane
      env c) := by
  have hn : g.seq.toNat = n.toNat := by simpa using List.find?_some h
  have hle : n.toNat ≤ 15 := by
    have := g.seq.isLt
    omega
  have hfind : (b.link[c].inflight.find? fun g => g.seq == n.truncate 4) = some g := by
    rw [← h]
    congr 1
    funext x
    rw [Bool.eq_iff_iff, beq_iff_eq, beq_iff_eq]
    exact seq_iff hle x.seq
  unfold Body.takeAck
  rw [h0, if_neg (Nat.not_lt.2 hle)]
  dsimp only
  rw [hfind, Option.map_some, ← (seq_iff hle g.seq).2 hn]

end TakeAck

theorem popFrame_inflight (b : Body) (l : ChanId) : (b.popFrame l).link[l].inflight = b.link[l].inflight := by
  unfold Body.popFrame
  rw [modLink_same]

theorem popFrame_unflight (b : Body) (l : ChanId) (q : BitVec 4) : (b.popFrame l).modLink l (·.unflight q) =
    b.modLink l fun k => { k with rx := k.rx.tail, inflight := k.inflight.filter fun g => g.seq != q } := modLink_modLink ..

/-! ### The directory's results -/

section Entry

variable {env : Env} {b : Body} {c : ChanId} {e : EntryNo} {r : Live}

/-- R22: a result for the generation recorded reaches the entry. -/
theorem ackDirectory_current {gen : Byte} (hl : b.dir[e].live = some r) (hg : b.dir[e].gen = gen) (resync ok : Bool) :
    b.ackDirectory env c e gen resync ok = (if resync then b.answered c else b).ackEntry env c e r ok := by
  unfold Body.ackDirectory
  rw [hl]
  exact if_pos hg

/-- R22, R122: any other result is ignored, but that a REJECT of RESYNC fails its channel. -/
theorem ackDirectory_stale {gen : Byte} (h : b.dir[e].live = none ∨ b.dir[e].gen ≠ gen) (resync ok : Bool) :
    b.ackDirectory env c e gen resync ok = if resync = true ∧ ok = false ∧ b.chan[c].state = .resync
      then (if resync then b.answered c else b).failChannel env c .protocol else if resync then b.answered c else b := by
  unfold Body.ackDirectory
  cases hl : b.dir[e].live with
  | none => rfl
  | some q => exact if_neg (h.resolve_left (by rw [hl]; exact Option.some_ne_none q))

theorem ackEntry_installing (h : r.st = .installing) (ok : Bool) :
    b.ackEntry env c e r ok = if ok then b.installed env c e r else b.installRefused env c e r := by
  unfold Body.ackEntry
  rw [h]

theorem ackEntry_inForce (h : r.st ∈ [.active, .refill]) (ok : Bool) :
    b.ackEntry env c e r ok = if ok then b else b.mappingRefused env c e r := by
  unfold Body.ackEntry
  simp only [List.mem_cons, List.not_mem_nil, or_false] at h
  rcases h with h | h <;> rw [h]

theorem ackEntry_removing (h : r.st = .removing) (ok : Bool) : b.ackEntry env c e r ok =
    if b.chan[c].state = .service ∧ 8 ≤ c.val then (b.freeEntry e).raise .refillNeeded (.key r.key) else b.freeEntry e := by
  have hclass : isBuffer c = false ↔ 8 ≤ c.val := by
    rw [isBuffer_eq, decide_eq_false_iff_not]
    exact Nat.not_lt
  unfold Body.ackEntry Body.removed
  rw [h]
  dsimp only
  simp only [hclass]

/-- An entry moves to another state, if it is not FREE. -/
theorem setEntryState_match (b : Body) (e : EntryNo) (st : EntryState) : b.setEntryState e st =
    { b with dir := b.dir.set e (match b.dir[e].live with
      | some q => ⟨b.dir[e].gen + 1#8, some { q with st := st }⟩
      | none => b.dir[e]) } := by
  cases hl : b.dir[e].live with
  | some q => exact setEntryState_eq hl st
  | none =>
    unfold Body.setEntryState
    rw [hl]
    exact congrArg (fun d => { b with dir := d }) (Vector.set_getElem_self e.isLt).symm

theorem owe_eq (b : Body) (e : EntryNo) (k : Key) : b.owe e k =
    Body.raise { b with dir := b.dir.set e (match b.dir[e].live with
      | some q => ⟨b.dir[e].gen + 1#8, some { q with st := .refill }⟩
      | none => b.dir[e]) } .refillNeeded (.key k) := congrArg (Body.raise · .refillNeeded (.key k)) (setEntryState_match b e .refill)

theorem isBuffer_true (h : c.val < 8) : isBuffer c = true := by rw [isBuffer_eq, decide_eq_true_iff]; exact h

theorem isBuffer_false (h : 8 ≤ c.val) : ¬isBuffer c = true := by rw [isBuffer_eq, decide_eq_true_iff]; omega

/-- R12: an OK in TEST. -/
theorem installed_test (h : b.chan[c].state = .test) :
    b.installed env c e r = ((b.activate e).noteRepaired c r).checkInstallPhase env c := by
  unfold Body.installed
  rw [h]

theorem installed_activates (h : b.chan[c].state = .ready ∨ (b.chan[c].state = .resync ∧ c.val < 8)) :
    b.installed env c e r = b.activate e := by
  unfold Body.installed
  rcases h with h | ⟨h, hc⟩
  · rw [h]
  · rw [h]
    exact if_pos (isBuffer_true hc)

theorem installed_service (h : b.chan[c].state = .service) (hc : c.val < 8) :
    b.installed env c e r = (b.activate e).raise .repairDone (.key r.key) := by
  unfold Body.installed
  rw [h]
  exact if_pos (isBuffer_true hc)

theorem installed_owes (h : b.chan[c].state ∈ [.service, .resync]) (hc : 8 ≤ c.val) : b.installed env c e r = b.owe e r.key := by
  unfold Body.installed
  simp only [List.mem_cons, List.not_mem_nil, or_false] at h
  rcases h with h | h
  · rw [h]
    exact if_neg (isBuffer_false hc)
  · rw [h]
    exact if_neg (isBuffer_false hc)

/-- R12, R122: a refused device spare is replaced in TEST and in RESYNC. -/
theorem installRefused_device (h : b.chan[c].state ∈ [.test, .resync]) (hd : ∃ g i, r.repl = some (.target (.device g i))) :
    b.installRefused env c e r = b.rejectTarget env c e := by
  obtain ⟨g, i, hd⟩ := hd
  unfold Body.installRefused
  simp only [List.mem_cons, List.not_mem_nil, or_false] at h
  rcases h with h | h <;> rw [h, hd]

theorem installRefused_protocol (h : b.chan[c].state ∈ [.ready, .service] ∨
      (b.chan[c].state ∈ [.test, .resync] ∧ ∀ g i, r.repl ≠ some (.target (.device g i)))) :
    b.installRefused env c e r = b.failChannel env c .protocol := by
  have hstate : b.chan[c].state ∈ [.ready, .service, .test, .resync] := by
    simp only [List.mem_cons, List.not_mem_nil, or_false] at h ⊢
    tauto
  have hdevice : b.chan[c].state ∈ [.test, .resync] → ∀ g i, r.repl ≠ some (.target (.device g i)) := fun hs =>
    h.elim (fun hr => absurd hr (by revert hs; cases b.chan[c].state <;> decide)) And.right
  unfold Body.installRefused
  split
  · rename_i hs hd
    exact absurd hd (hdevice (by rw [hs]; decide) _ _)
  · rename_i hs hd
    exact absurd hd (hdevice (by rw [hs]; decide) _ _)
  iterate 4
    · rename_i hs
      exact absurd hstate (by rw [hs]; decide)
  · rfl

/-- R122: a refused mapping that was in force. -/
theorem mappingRefused_target (h : b.chan[c].state = .resync) (ht : ∃ t, r.repl = some (.target t)) :
    b.mappingRefused env c e r = b.rejectTarget env c e := by
  obtain ⟨t, ht⟩ := ht
  unfold Body.mappingRefused
  rw [h, ht]

theorem mappingRefused_other (h : b.chan[c].state = .resync) (ht : ∀ t, r.repl ≠ some (.target t)) :
    b.mappingRefused env c e r = b.failChannel env c .protocol := by
  unfold Body.mappingRefused
  rw [h]
  rcases hr : r.repl with _ | (t | _)
  · rfl
  · exact absurd hr (ht t)
  · rfl

/-- R73: a row entry with a target joins the REPAIRED list once. -/
theorem noteRepaired_row {row : Nat} {t : Target} (hr : r.key.row = some row) (ht : r.repl = some (.target t)) :
    b.noteRepaired c r = { b with chan := b.chan.set c { b.chan[c] with
      repaired := if ⟨r.key.bank, row⟩ ∈ b.chan[c].repaired then b.chan[c].repaired
        else b.chan[c].repaired ++ [⟨r.key.bank, row⟩] } } := by
  have hadd : (if ⟨r.key.bank, row⟩ ∈ b.chan[c].repaired then b.chan[c]
      else { b.chan[c] with repaired := b.chan[c].repaired ++ [⟨r.key.bank, row⟩] }) = { b.chan[c] with
        repaired := if ⟨r.key.bank, row⟩ ∈ b.chan[c].repaired then b.chan[c].repaired
          else b.chan[c].repaired ++ [⟨r.key.bank, row⟩] } := by
    split <;> rfl
  unfold Body.noteRepaired
  rw [hr, ht]
  exact congrArg (fun x => { b with chan := b.chan.set c x }) hadd

theorem noteRepaired_other (h : r.key.row = none ∨ ∀ t, r.repl ≠ some (.target t)) : b.noteRepaired c r = b := by
  unfold Body.noteRepaired
  split
  · rename_i hr ht
    rcases h with h | h
    · rw [h] at hr
      cases hr
    · exact absurd ht (h _)
  · rfl

theorem rejectTarget_none (h : b.retarget env e none = none) : b.rejectTarget env c e = b.failChannel env c .unrepairable := by
  unfold Body.rejectTarget
  rw [h]

theorem rejectTarget_some {b1 : Body} (h : b.retarget env e none = some b1) : b.rejectTarget env c e =
    if b.chan[c].state = .resync then (b1.sendInstall e true).await c else (b1.sendInstall e false).countRepair c := by
  unfold Body.rejectTarget
  rw [h]

end Entry

/-! ### CLEAR_SET and RELEASE -/

section Release

variable {env : Env} {b : Body} {c : ChanId}

theorem ackRunRelease_absent (h : b.chan[c].releaseOut = false) (ok : Bool) : b.ackRunRelease env c ok = b :=
  if_neg (by rw [h]; exact Bool.false_ne_true)

theorem ackResyncRelease_eq (ok : Bool) : b.ackResyncRelease env c ok =
    if b.chan[c].releaseOut = true ∧ b.chan[c].state = .resync then
      if ok then b.enterService env c else b.failChannel env c .protocol else b := rfl

/-- R81: the RELEASE of READY. -/
theorem ackRunRelease_ready (h : b.chan[c].releaseOut = true) (hs : b.chan[c].state = .ready) (ok : Bool) :
    b.ackRunRelease env c ok = if ok then b.enterService env c else b.failChannel env c .protocol := by
  unfold Body.ackRunRelease
  rw [if_pos h, hs]

/-- R80: the RELEASE of a run. -/
theorem ackRunRelease_run (h : b.chan[c].releaseOut = true) (hs : b.chan[c].state = .test)
    (hp : b.chan[c].phase = some .releasing) (ok : Bool) :
    b.ackRunRelease env c ok = if ok then Body.enterService env
      (b.raise .testDone (.testDone c b.chan[c].skipped b.chan[c].repairs)) c else b.failChannel env c .protocol := by
  unfold Body.ackRunRelease
  rw [if_pos h, hs, hp]
  rfl

theorem ackRunRelease_other (hs : ¬(b.chan[c].state = .ready ∨ (b.chan[c].state = .test ∧ b.chan[c].phase = some .releasing)))
    (ok : Bool) : b.ackRunRelease env c ok = b := by
  unfold Body.ackRunRelease
  split
  · split
    · rename_i ht hp
      exact absurd (.inr ⟨ht, hp⟩) hs
    · rename_i hr
      exact absurd (.inl hr) hs
    · rfl
  · rfl

theorem resyncCheck_done (h : b.chan[c].state = .resync ∧ b.chan[c].walkPos = some 1024 ∧ b.chan[c].awaited = some 0 ∧
      b.chan[c].releaseOut = false) : b.resyncCheck c =
    Body.offer (b.modChan c fun ch => { ch with releaseOut := true }) c .release (.release .resync false) := if_pos h

end Release

/-- R80, R81, R123: the result of a RELEASE that is not abandoned. -/
theorem ackRelease_eq {env : Env} {b : Body} {c : ChanId} (k : ReleaseOf) (ok : Bool) (h : b.chan[c].releaseOut = true) :
    let st := b.chan[c].state
    let closes := (k = .resync ∧ st = .resync) ∨
      (k ≠ .resync ∧ (st = .ready ∨ (st = .test ∧ b.chan[c].phase = some .releasing)))
    (¬closes → b.ackOwner env c (.release k false) ok = b) ∧
    (closes → ok = false → b.ackOwner env c (.release k false) ok = b.failChannel env c .protocol) ∧
    (closes → ok = true → st ≠ .test → b.ackOwner env c (.release k false) ok = b.enterService env c) ∧
    (closes → ok = true → st = .test → b.ackOwner env c (.release k false) ok = Body.enterService env
      (b.raise .testDone (.testDone c b.chan[c].skipped b.chan[c].repairs)) c) := by
  intro st closes
  by_cases hk : k = .resync
  · subst hk
    have howner : b.ackOwner env c (.release .resync false) ok = b.ackResyncRelease env c ok := rfl
    have hcloses : closes ↔ st = .resync := by simp [closes]
    rw [howner, ackResyncRelease_eq, hcloses]
    refine ⟨fun hn => if_neg fun hh => hn hh.2, fun hs ho => ?_, fun hs ho _ => ?_, fun hs _ ht => ?_⟩
    · rw [if_pos ⟨h, hs⟩, ho]
      exact if_neg Bool.false_ne_true
    · rw [if_pos ⟨h, hs⟩, ho]
      exact if_pos rfl
    · rw [hs] at ht
      cases ht
  · have howner : b.ackOwner env c (.release k false) ok = b.ackRunRelease env c ok := by
      cases k with
      | run | ready => rfl
      | resync => exact absurd rfl hk
    have hcloses : closes ↔ st = .ready ∨ (st = .test ∧ b.chan[c].phase = some .releasing) := by simp [closes, hk]
    rw [howner, hcloses]
    refine ⟨fun hn => ackRunRelease_other hn ok, fun hs ho => ?_, fun hs ho hne => ?_, fun hs ho ht => ?_⟩
    · subst ho
      rcases hs with hs | ⟨hs, hp⟩
      · exact (ackRunRelease_ready h hs false).trans (if_neg Bool.false_ne_true)
      · exact (ackRunRelease_run h hs hp false).trans (if_neg Bool.false_ne_true)
    · subst ho
      exact (ackRunRelease_ready h (hs.resolve_right fun hh => hne hh.1) true).trans (if_pos rfl)
    · subst ho
      have hp : b.chan[c].phase = some .releasing := hs.elim (fun hr => nomatch hr.symm.trans ht) fun hh => hh.2
      exact (ackRunRelease_run h ht hp true).trans (if_pos rfl)

/-- Settles O46: the frame answered, then its note by kind and its entry by state. -/
theorem ackGoesToItsOwner : Obligations.AckGoesToItsOwner := by
  unfold Obligations.AckGoesToItsOwner
  refine ⟨fun s l f n res hh hp hf => ?ack, fun s l h => by rw [exec_ack]; exact takeFrame_idle h, fun env b c => ?_⟩
  case ack =>
    rw [exec_ack]
    intro k dropped
    have h0 : f.at 0 = n := at_of_payload hf _
    have h1 : f.at 1 = res := at_of_payload hf _
    have hin := popFrame_inflight s.body l
    refine ⟨fun h => takeFrame_ignores hh hp (takeAck_none h0 (by rw [hin]; exact h)), fun g hg => ?_⟩
    have htake := takeAck_some (env := s.env) (b := s.body.popFrame l) h0 (g := g) (by rw [hin]; exact hg)
    rw [popFrame_unflight, h1] at htake
    exact takeFrame_acts hh hp htake
  intro st lowered fails
  refine ⟨fun e gen resync ok => ⟨fun r hl hg => ackDirectory_current hl hg resync ok, fun h => ackDirectory_stale h resync ok⟩,
    fun e r hi => ?installing, fun r row t => noteRepaired_row, fun r => noteRepaired_other, fun e r hf => ?inForce,
    fun e r ok => (ackEntry_removing · ok), fun e => ?reject, fun hs => ⟨?_, ?_⟩, fun hs ok => ?_, fun k ok => ⟨?_, ?_, ?_⟩,
    fun _ _ => rfl, fun h => if_neg h, resyncCheck_done⟩
  case installing =>
    have hentry := ackEntry_installing (env := env) (b := b) (c := c) (e := e) hi
    exact ⟨fun h => (hentry true).trans (installed_test h), fun h => (hentry true).trans (installed_activates h),
      fun h hc => (hentry true).trans (installed_service h hc),
      fun h hc => (hentry true).trans ((installed_owes h hc).trans (owe_eq ..)),
      fun h hd => (hentry false).trans (installRefused_device h hd),
      fun h => (hentry false).trans (installRefused_protocol h)⟩
  case inForce =>
    have hentry := ackEntry_inForce (env := env) (b := b) (c := c) (e := e) hf
    exact ⟨hentry true, fun hs ht => (hentry false).trans (mappingRefused_target hs ht),
      fun hs ht => (hentry false).trans (mappingRefused_other hs ht)⟩
  case reject =>
    refine ⟨rejectTarget_none, fun b1 h => ⟨fun hs => ⟨_, rfl, (rejectTarget_some h).trans (if_pos hs)⟩,
      fun hs => (rejectTarget_some h).trans (if_neg hs)⟩⟩
  · exact if_pos hs
  · exact if_pos hs
  · exact if_neg hs
  · cases k <;> rfl
  · intro h
    cases k with
    | resync => exact if_neg fun hh => by rw [h] at hh; exact Bool.false_ne_true hh.1
    | run | ready => exact ackRunRelease_absent h ok
  · exact ackRelease_eq k ok

end Sys2Proof.Proofs.Acks
end
